-- ==== Sys2Proof/Word.lean ====
section
/-! DEFINITION. The widths the source fixes (`00_scope.md` R7), as names for core bit vectors. -/

namespace Sys2Proof

/-- A stream byte, a payload byte, a frame-buffer cell: 8 bits (R7). -/
abbrev Byte := BitVec 8

/-- A sample word: 16 bits (R7). -/
abbrev Word16 := BitVec 16

/-- The range field of a sample word: 2 bits (R7). -/
abbrev RangeBits := BitVec 2

/-- The ADC code of a sample word: 14 bits (R78). -/
abbrev Code := BitVec 14

/-- A binary32 bit pattern or a tick counter: 32 bits (R7). -/
abbrev Word32 := BitVec 32

/-- A timestamp in microseconds, or a value of format `F` (R7, R8; log 2). -/
abbrev Word64 := BitVec 64

/-- An uninterpreted value the block carries without reading it: a descriptor, a `DeviceMetadata`
token, a failure's cause (R30, R183, R184, U8, U9; log 10). -/
abbrev Token := Nat

end Sys2Proof
end

