-- ==== Sys2Proof/Config.lean ====
section
/-! DEFINITION. The configuration record `CFG` (`00_scope.md` R4 to R8): its fixed constants, its open
fields, the example instance `CFG_EX`, and the values no rule fixes. -/

namespace Sys2Proof

/-- What `CFG.NUMERICS` is (R8): the spec's default arithmetic, or another record, named by a number and
not interpreted (log 2). -/
inductive NumericsId where
  | ieee
  | other (k : Nat)
deriving DecidableEq, Repr

/-- `MeasurementRange` (R29): five values. No field value of a word maps to `invalid` (R161, R169). -/
inductive MeasurementRange where
  | none
  | low
  | mid
  | high
  | invalid
deriving DecidableEq, Repr

/-- What `CFG.RANGE_MAP` is (R4): a measurement range for each 2-bit value, written out value by value. -/
structure RangeMap where
  at00 : MeasurementRange
  at01 : MeasurementRange
  at10 : MeasurementRange
  at11 : MeasurementRange
deriving DecidableEq, Repr

/-- The fields of `CFG` that have no value in the source, or a value the spec decides and keeps a parameter
(R4; D7 and D11 for `RANGE_MAP` and `NUMERICS`). `adcScale` is held in the format `F` of `numerics`, as R4 says.
`maxFrameLen = none` is `unbounded`. -/
structure Cfg where
  stx         : Byte
  etx         : Byte
  esc         : Byte
  adcScale    : Word64
  tSampleUs   : Nat
  tTickUs     : Nat
  maxFrameLen : Option Nat
  rangeMap    : RangeMap
  numerics    : NumericsId
deriving DecidableEq, Repr

/-- The record of arithmetic functions of R8, over values of format `F` held in 64 bits (log 2).
`ofRatF n d` is the conversion of the positive rational `n / d` to `F` ("each converted to format `F`", R27);
`validF` says a value of `F` is finite and strictly positive (R187). -/
structure Numerics where
  divF   : Word64 → Word64 → Word64
  mulF   : Word64 → Word64 → Word64
  ofNatF : Nat → Word64
  microF : Word64
  toF32  : Word64 → Word32
  ofRatF : Nat → Nat → Word64
  validF : Word64 → Bool
deriving Inhabited

namespace Config

/-- `XOR_MASK` (R4, SOURCE). -/
def xorMask : Byte := 0x20#8

/-- `RANGE_POS` (R4, DERIVED). -/
def rangePos : Nat := 14

/-- `RANGE_MASK` (R4, DERIVED). -/
def rangeMask : Word16 := 0xC000#16

/-- `ADC_MASK` (R4, DERIVED). -/
def adcMask : Word16 := 0x3FFF#16

/-- `MICRO` (R4, SOURCE). -/
def micro : Nat := 1000000

/-- The value R4 gives `RANGE_MAP`: 0 None, 1 Low, 2 Mid, 3 High (R78, D7; log 14). -/
def rangeMapDefault : RangeMap := { at00 := .none, at01 := .low, at10 := .mid, at11 := .high }

/-- `CFG_EX` (R6), the example instance the test vectors are printed for. `adcScale` is
`0x1.3333333333333p-16` as a binary64 pattern. -/
def cfgEx : Cfg :=
  { stx := 0x02#8, etx := 0x03#8, esc := 0x1F#8, adcScale := 0x3EF3333333333333#64,
    tSampleUs := 13, tTickUs := 13, maxFrameLen := none, rangeMap := rangeMapDefault, numerics := .ieee }

/-- FREE VALUE (log 4): the bits IEEE-754 leaves open in the NaN that a binary64 operation on these two
operands makes. -/
opaque nan64Bits : Word64 → Word64 → Word64

/-- FREE VALUE (log 4): the bits IEEE-754 leaves open in the NaN that the conversion of a binary64 NaN to
binary32 makes. -/
opaque nan32Bits : Word64 → Word32

/-- FREE VALUE (log 2): the arithmetic of a non-default `NUMERICS`, of which nothing is assumed (R167). -/
opaque otherNumerics : Nat → Numerics

end Config
end Sys2Proof
end

