-- ==== Sys2Proof/Syntax.lean ====
section
/-! DEFINITION. The operations of the block, one constructor per row of `opcode_table.json`, and the input
events that carry them (`30_encoding.md` R70, R90). -/

namespace Sys2Proof

/-- The lifecycle state `run` (R21). -/
inductive Lifecycle where
  | stopped
  | starting
  | running
deriving DecidableEq, Repr

/-- The receive state `rx_state` (R22). -/
inductive RxState where
  | normal
  | escapePending
deriving DecidableEq, Repr

/-- The sink's answer to one `send` (R186, U10), with the optional opaque cause of a failure (R200). -/
inductive SinkOutcome where
  | ok
  | fail (cause : Option Token)
deriving DecidableEq, Repr

/-- The verdict of OPEN_DONE (R184). -/
inductive Verdict where
  | ok (md : Token)
  | metaFail
  | transportFail (cause : Option Token)
deriving DecidableEq, Repr

/-- The operations (R11, R70). TX.STUFF has one constructor per marker, as the table has one row per
marker. RX.ESC, RX.ETX and TX.STUFF have no operand: the byte is the marker itself (R101, R102, R121). -/
inductive Instr where
  -- format RXB
  | rxEsc
  | rxEtx
  | rxData (b : Byte)
  | rxUnesc (b : Byte)
  -- format TXB
  | txStuffStx
  | txStuffEtx
  | txStuffEsc
  | txLit (p : Byte)
  -- format TXF
  | txFrame (p : List Byte) (outcome : SinkOutcome)
  -- formats FAVG, FTICK, FBURST
  | frmAvg (v : Word32)
  | frmTick (ticks : Word32) (x : Byte)
  | frmBurst (f : List Byte)
  -- format W16
  | wNone (code : Code)
  | wLow (code : Code)
  | wMid (code : Code)
  | wHigh (code : Code)
  -- format CTL
  | reset
  | start (descriptor : Token)
  | openDone (verdict : Verdict)
  | stop
  | send (cmd : Option (List Byte)) (outcome : SinkOutcome)
  | setcal (low mid high : Word64)
  | rxbyte (b : Byte)
  | transportFail (cause : Option Token)
deriving DecidableEq, Repr

/-- The eight formats of R70. -/
inductive Format where
  | rxb
  | txb
  | txf
  | favg
  | ftick
  | fburst
  | w16
  | ctl
deriving DecidableEq, Repr

/-- The one format of each operation (R70). -/
def Instr.format : Instr → Format
  | .rxEsc | .rxEtx | .rxData _ | .rxUnesc _ => .rxb
  | .txStuffStx | .txStuffEtx | .txStuffEsc | .txLit _ => .txb
  | .txFrame _ _ => .txf
  | .frmAvg _ => .favg
  | .frmTick _ _ => .ftick
  | .frmBurst _ => .fburst
  | .wNone _ | .wLow _ | .wMid _ | .wHigh _ => .w16
  | .reset | .start _ | .openDone _ | .stop | .send _ _ | .setcal _ _ _ | .rxbyte _
  | .transportFail _ => .ctl

/-- A host or transport call, format CTL: no bit encoding (R70, R90). -/
inductive Call where
  | reset
  | start (descriptor : Token)
  | openDone (verdict : Verdict)
  | stop
  | send (cmd : Option (List Byte)) (outcome : SinkOutcome)
  | setcal (low mid high : Word64)
  | rxbyte (b : Byte)
  | transportFail (cause : Option Token)
deriving DecidableEq, Repr

/-- Where a datum with a bit encoding enters an inner unit: the receive decoder (RXB), the byte and the
command input of the encoder (TXB, TXF; the command with the sink's drawn answer), the classifier
(FAVG, FTICK, FBURST, told apart by length, R141), the word decoder (W16). DESIGN CHOICE, log 6. -/
inductive Port where
  | rx
  | payload
  | command (outcome : SinkOutcome)
  | frame
  | word
deriving DecidableEq, Repr

/-- One input event (R11): a call, or a datum at a port, its bytes in the order of rising offset (R53). -/
inductive Event where
  | call (c : Call)
  | datum (port : Port) (bytes : List Byte)
deriving DecidableEq, Repr

end Sys2Proof
end

