-- ==== Sys2Proof/Machine/Ieee.lean ====
section
/-! DEFINITION. IEEE-754 binary64 multiplication and division and the conversions of the default
`NUMERICS` (`00_scope.md` R8, `93_implementation_defined.md` G5, G8; log 3). Every finite magnitude is an
exact natural number of least subnormals, an operation is computed exactly as a quotient of naturals, and
`roundMag` rounds it once, to nearest, ties to even. -/

namespace Sys2Proof.Machine

/-- `a / b` rounded to the nearest natural, ties to the even one. -/
def rneDiv (a b : Nat) : Nat :=
  let q := a / b
  let r := a % b
  if 2 * r < b then q else if b < 2 * r then q + 1 else q + q % 2

/-- The magnitude bits of `n / d` rounded to nearest even in a binary format with `fracBits` fraction bits,
least subnormal `2 ^ -quantum` and infinity pattern `infBits`. The significand of binade `k` is rounded to a
multiple of `2 ^ k` quanta; a carry out of it moves to the next binade by itself, and what passes the largest
finite value is infinity. -/
def roundMag (fracBits quantum infBits n d : Nat) : Nat :=
  let k := (n * 2 ^ quantum / d).log2 - fracBits
  min (k * 2 ^ fracBits + rneDiv (n * 2 ^ quantum) (d * 2 ^ k)) infBits

/-- The exponent of the least binary64 subnormal, `2 ^ -1074`. -/
def quantum64 : Nat := 1074

/-- The binary64 pattern of `+inf`, as a number. -/
def infBits64 : Nat := 0x7FF0000000000000

/-- The exponent of the least binary32 subnormal, `2 ^ -149`. -/
def quantum32 : Nat := 149

/-- The binary32 pattern of `+inf`, as a number. -/
def infBits32 : Nat := 0x7F800000

/-- `n / d` rounded to binary64 magnitude bits. -/
def round64 (n d : Nat) : Nat := roundMag 52 quantum64 infBits64 n d

/-- `n / d` rounded to binary32 magnitude bits. -/
def round32 (n d : Nat) : Nat := roundMag 23 quantum32 infBits32 n d

/-- The bits of a binary64 pattern below the sign. -/
def magBits64 (a : Word64) : Nat := a.toNat % 2 ^ 63

/-- The sign bit of a binary64 pattern. -/
def neg64 (a : Word64) : Bool := decide (2 ^ 63 ≤ a.toNat)

/-- A NaN: exponent all ones, fraction not zero. -/
def isNan64 (a : Word64) : Bool := decide (infBits64 < magBits64 a)

/-- An infinity. -/
def isInf64 (a : Word64) : Bool := decide (magBits64 a = infBits64)

/-- A zero of either sign. -/
def isZero64 (a : Word64) : Bool := decide (magBits64 a = 0)

/-- The magnitude of a finite pattern as a number of least subnormals: `fraction` below the first normal
binade, else `(2^52 + fraction) × 2^(exponent - 1)`. -/
def units64 (a : Word64) : Nat :=
  let e := magBits64 a / 2 ^ 52
  let f := magBits64 a % 2 ^ 52
  if e = 0 then f else (2 ^ 52 + f) * 2 ^ (e - 1)

/-- A binary64 pattern from a sign and magnitude bits. -/
def pack64 (neg : Bool) (mag : Nat) : Word64 :=
  BitVec.ofNat 64 (mag + if neg then 2 ^ 63 else 0)

/-- A quiet NaN, its sign and payload free (log 4). -/
def nan64 (a b : Word64) : Word64 := Config.nan64Bits a b ||| 0x7FF8000000000000#64

/-- Binary64 multiplication, round to nearest even (R8). -/
def mul64 (a b : Word64) : Word64 :=
  let s := neg64 a != neg64 b
  if isNan64 a || isNan64 b then nan64 a b
  else if isInf64 a || isInf64 b then
    if isZero64 a || isZero64 b then nan64 a b else pack64 s infBits64
  else pack64 s (round64 (units64 a * units64 b) (2 ^ (2 * quantum64)))

/-- Binary64 division, round to nearest even (R8). -/
def div64 (a b : Word64) : Word64 :=
  let s := neg64 a != neg64 b
  if isNan64 a || isNan64 b then nan64 a b
  else if isInf64 a then if isInf64 b then nan64 a b else pack64 s infBits64
  else if isInf64 b then pack64 s 0
  else if isZero64 b then if isZero64 a then nan64 a b else pack64 s infBits64
  else pack64 s (round64 (units64 a) (units64 b))

/-- A natural as a binary64 (R8, exact below 2^53). -/
def ofNat64 (n : Nat) : Word64 := pack64 false (round64 n 1)

/-- The positive rational `n / d` as the nearest binary64 (R27). -/
def ofRat64 (n d : Nat) : Word64 := pack64 false (round64 n d)

/-- Conversion binary64 to binary32, round to nearest even (R8). The NaN it makes of a NaN is quiet, its
sign and payload free (log 4). -/
def toF32 (a : Word64) : Word32 :=
  if isNan64 a then Config.nan32Bits a ||| 0x7FC00000#32
  else
    BitVec.ofNat 32
      ((if isInf64 a then infBits32 else round32 (units64 a) (2 ^ quantum64))
        + if neg64 a then 2 ^ 31 else 0)

/-- A binary64 that is finite and strictly positive (R187). -/
def valid64 (a : Word64) : Bool := !neg64 a && !isZero64 a && decide (magBits64 a < infBits64)

end Sys2Proof.Machine
end

