-- ==== Sys2Proof/Machine/Numerics.lean ====
section
/-! DEFINITION. `NUMERICS` (`00_scope.md` R8): the default record, and the record a configuration names. -/

namespace Sys2Proof.Machine

/-- The default `NUMERICS` of R8: binary64 steps, round to nearest even, then to binary32. -/
def ieeeNumerics : Numerics :=
  { divF := div64, mulF := mul64, ofNatF := ofNat64, microF := ofNat64 Config.micro,
    toF32 := Machine.toF32, ofRatF := ofRat64, validF := valid64 }

/-- The arithmetic a `NUMERICS` name stands for. -/
def numericsOf : NumericsId → Numerics
  | .ieee => ieeeNumerics
  | .other k => Config.otherNumerics k

/-- The arithmetic of a configuration. -/
def cfgNum (c : Cfg) : Numerics := numericsOf c.numerics

/-- `R_LOW_DEFAULT` = 1.8 in format `F` (R4, R27). -/
def rLowDefault (c : Cfg) : Word64 := (cfgNum c).ofRatF 18 10

/-- `R_MID_DEFAULT` = 28.0 in format `F` (R4, R27). -/
def rMidDefault (c : Cfg) : Word64 := (cfgNum c).ofRatF 28 1

/-- `R_HIGH_DEFAULT` = 510.0 in format `F` (R4, R27). -/
def rHighDefault (c : Cfg) : Word64 := (cfgNum c).ofRatF 510 1

end Sys2Proof.Machine
end

