-- ==== Sys2Proof/WellFormed.lean ====
section
/-! DEFINITION. What a configuration and an operation must satisfy to be well-formed (`00_scope.md` R5,
`30_encoding.md` R71, R72, R77), and when an operation's row of the table is selected (R82). -/

namespace Sys2Proof

open Machine

/-- `MAX_FRAME_LEN ≥ 5` or unbounded (R5). -/
def Cfg.maxFrameLenWf (c : Cfg) : Bool :=
  match c.maxFrameLen with
  | none => true
  | some m => decide (5 ≤ m)

/-- `RANGE_MAP` names each of the four ranges once and never `Invalid` (R161, R169; the bijections of D7, log
14). -/
def RangeMap.wf (m : RangeMap) : Bool :=
  decide ([m.at00, m.at01, m.at10, m.at11].Nodup) &&
    decide (MeasurementRange.invalid ∉ [m.at00, m.at01, m.at10, m.at11])

/-- Well-formedness of `CFG` (R5): three distinct markers, a finite positive `ADC_SCALE`,
`T_TICK_US < 2^32`, room for a tick frame; and D7's condition on `RANGE_MAP` (log 14). The three resistor defaults are positive in format `F`
(R27 "holds at reset by the defaults", R37 (b)), which the default `NUMERICS` meets by itself. -/
def Cfg.wf (c : Cfg) : Bool :=
  decide (c.stx ≠ c.etx) && decide (c.stx ≠ c.esc) && decide (c.etx ≠ c.esc)
    && (cfgNum c).validF c.adcScale
    && decide (c.tTickUs < 2 ^ 32)
    && c.maxFrameLenWf
    && c.rangeMap.wf
    && (cfgNum c).validF (rLowDefault c)
    && (cfgNum c).validF (rMidDefault c)
    && (cfgNum c).validF (rHighDefault c)

/-- The three reserved byte values of a command (R72). -/
def Cfg.isMarker (c : Cfg) (p : Byte) : Bool :=
  decide (p = c.stx) || decide (p = c.etx) || decide (p = c.esc)

/-- What selects an operation besides the datum itself (R71, R82): the constants, `run`, `rx_state`. -/
structure Ctx where
  cfg     : Cfg
  run     : Lifecycle
  rxState : RxState
deriving DecidableEq, Repr

/-- The operands an operation's row admits: RX.DATA and TX.LIT are catch-alls for the byte values no other
row takes, and a burst has neither of the two other frame lengths (R71, R72, R77). -/
def Instr.wf (c : Cfg) : Instr → Bool
  | .rxData b => decide (b ≠ c.esc) && decide (b ≠ c.etx)
  | .txLit p => !c.isMarker p
  | .frmBurst f => decide (f.length ≠ 4) && decide (f.length ≠ 5)
  | .rxEsc | .rxEtx | .rxUnesc _ | .txStuffStx | .txStuffEtx | .txStuffEsc | .txFrame _ _
  | .frmAvg _ | .frmTick _ _ | .wNone _ | .wLow _ | .wMid _ | .wHigh _
  | .reset | .start _ | .openDone _ | .stop | .send _ _ | .setcal _ _ _ | .rxbyte _
  | .transportFail _ => true

/-- The mode in which an operation's row is selected (R71, R82; the table's `run` and `rx_state`
conditions). A call is taken in every mode; the data of the inner units exist only while `Running`. -/
def Instr.selectedIn (x : Ctx) : Instr → Bool
  | .rxEsc | .rxEtx | .rxData _ => decide (x.run = .running) && decide (x.rxState = .normal)
  | .rxUnesc _ => decide (x.run = .running) && decide (x.rxState = .escapePending)
  | .txStuffStx | .txStuffEtx | .txStuffEsc | .txLit _ | .txFrame _ _
  | .frmAvg _ | .frmTick _ _ | .frmBurst _ | .wNone _ | .wLow _ | .wMid _ | .wHigh _ =>
    decide (x.run = .running)
  | .reset | .start _ | .openDone _ | .stop | .send _ _ | .setcal _ _ _ | .rxbyte _
  | .transportFail _ => true

end Sys2Proof
end

