-- ==== Sys2Proof/Machine/State.lean ====
section
/-! DEFINITION. The state of the block (`10_state.md` R20), its output traces (R33), the model's own fields,
and the reset values (R38). -/

namespace Sys2Proof.Machine

/-- The frame buffer as (offset, byte) pairs, offsets strictly rising (R50). An unlisted cell has no value:
"the contents of buffer cells at index ≥ rx_len are not state" (R25; log 11). -/
abbrev Memory := List Host.Cell

/-- The canonical form: offsets strictly rising. No entry can equal what an unlisted cell reads as, since
that is no value. -/
abbrev Memory.wf (m : Memory) : Prop := (m.map Prod.fst).Pairwise (· < ·)

/-- The error kinds (R200). -/
inductive ErrKind where
  | rangeNone
  | rangeInvalid
  | overflow
  | badCmd
  | notRunning
  | doubleStart
  | metadata
  | transport
deriving DecidableEq, Repr

/-- The stage tags (R200). -/
inductive Stage where
  | codec
  | decode
  | metadata
  | transport
  | usage
deriving DecidableEq, Repr

/-- What an error records (R200): nothing, the index of a word, or the transport's opaque cause. -/
inductive Info where
  | none
  | wordIndex (i : Nat)
  | cause (c : Option Token)
deriving DecidableEq, Repr

/-- An error as it is reported (R204): its kind, its stage, what it records. The message text is not
modelled (R200, log 21). -/
structure Err where
  kind  : ErrKind
  stage : Stage
  info  : Info
deriving DecidableEq, Repr

/-- The events to the host (R30, R32). A value is a binary32 pattern, a time a `ts` value. -/
inductive HostEvent where
  | average (value : Word32) (timestampUs : Word64)
  | trigger (values : List Word32) (lastTimestampUs : Word64)
  | error (e : Err)
deriving DecidableEq, Repr

/-- The calls to the transport (R31). -/
inductive TxAction where
  | openLink (descriptor : Token)
  | send (bytes : List Byte)
  | close
deriving DecidableEq, Repr

/-- The synchronous results of the host's calls (R10, R32, R91). -/
inductive CallResult where
  | startOk (md : Token)
  | startErr (e : Err)
  | sendOk
  | sendErr (e : Err)
deriving DecidableEq, Repr

/-- The result of converting one sample word (R160): a binary32 pattern, or a failure. -/
inductive WordResult where
  | ok (value : Word32)
  | fail (kind : ErrKind)
deriving DecidableEq, Repr

/-- What an inner operation hands back to the operation that invokes it (R121 to R123, R160; log 7). -/
inductive OpResult where
  | word (r : WordResult)
  | bytes (bs : List Byte)
  | sink (outcome : SinkOutcome)
deriving DecidableEq, Repr

/-- The state. The first nine fields are R20's record; `evOut` and `txOut` are R33's traces; the last four
are the model's own (`INVENTORY.md`). -/
structure State where
  run     : Lifecycle
  rxState : RxState
  rxBuf   : Memory
  rxLen   : Nat
  rxOvf   : Bool
  ts      : Word64
  rLow    : Word64
  rMid    : Word64
  rHigh   : Word64
  evOut   : List HostEvent
  txOut   : List TxAction
  cfg     : Cfg
  input   : List Event
  results : List CallResult
  opOut   : List OpResult
deriving DecidableEq, Repr

/-- Why the machine stops. -/
inductive Fault where
  /-- Raised by RX.ETX (and RXBYTE through it) when a cell below `rx_len` is unlisted, so that the hand-off
  of R52 has no byte to copy. No run reaches it (`Safety.bufferExact`). SAFE: it stops where the spec's
  buffer cannot be. -/
  | frameHole
deriving DecidableEq, Repr

/-- Why an input has no meaning. -/
inductive Refusal where
  /-- An instruction without a meaning; raised by no arm of this model. SAFE. -/
  | notModelled (mnemonic : String)
  /-- Raised by SETCAL for a value that is not finite and strictly positive: "a model refuses it (gives it
  no meaning)" (R187 (d), R238, U5). SAFE. -/
  | calibrationOutOfDuty
  /-- Raised by the step for a datum with more or fewer bytes than its port is wide (R7): an input the port
  cannot carry (log 28). SAFE. -/
  | datumWidth
deriving DecidableEq, Repr

/-- The state right after power-on reset under a configuration (R38, first column). -/
def State.powerOn (c : Cfg) : State :=
  { run := .stopped, rxState := .normal, rxBuf := [], rxLen := 0, rxOvf := false, ts := 0#64,
    rLow := rLowDefault c, rMid := rMidDefault c, rHigh := rHighDefault c,
    evOut := [], txOut := [], cfg := c, input := [], results := [], opOut := [] }

/-- The machine right after reset, under the example configuration (R6, R38; log 1). -/
def State.reset : State := State.powerOn Config.cfgEx

/-- What selects an operation in this state. -/
def State.ctx (s : State) : Ctx := { cfg := s.cfg, run := s.run, rxState := s.rxState }

end Sys2Proof.Machine
end

