-- ==== Sys2Proof/Machine/Flags.lean ====
section
/-! DEFINITION. The block's one flag, `rx_ovf` (`10_state.md` R23), and the tags an error carries
(`60_exceptions.md` R200). -/

namespace Sys2Proof.Machine

/-- `rx_len < MAX_FRAME_LEN`, always true when unbounded (R51). -/
def hasRoom (c : Cfg) (len : Nat) : Bool :=
  match c.maxFrameLen with
  | none => true
  | some m => decide (len < m)

/-- `rx_ovf` after an append: set at the bound, else as it was (R23, R51). -/
def ovfAfterAppend (c : Cfg) (len : Nat) (ovf : Bool) : Bool := ovf || !hasRoom c len

/-- An append reports E_OVERFLOW: at the bound, once per frame (R51, R207). -/
def reportsOverflow (c : Cfg) (len : Nat) (ovf : Bool) : Bool := !hasRoom c len && !ovf

/-- The stage of an error kind (R200). -/
def stageOf : ErrKind → Stage
  | .rangeNone | .rangeInvalid => .decode
  | .overflow | .badCmd => .codec
  | .notRunning | .doubleStart => .usage
  | .metadata => .metadata
  | .transport => .transport

/-- An error of a kind, with its stage tag (R200, R204). -/
def mkErr (k : ErrKind) (info : Info) : Err := { kind := k, stage := stageOf k, info := info }

end Sys2Proof.Machine
end

