-- ==== Sys2Proof/Machine/Operands.lean ====
section
/-! DEFINITION. Operand assembly (`30_encoding.md` R79): un-stuffing, little-endian reads of a frame, the two
fields of a sample word. -/

namespace Sys2Proof.Machine

/-- Stuffing and un-stuffing are the same function: XOR with `XOR_MASK`, 8 bits (R79 (a), (b)). -/
def xorByte (b : Byte) : Byte := b ^^^ Config.xorMask

/-- Two bytes at rising offsets as a 16-bit value, little-endian (R53). -/
def le16 (b0 b1 : Byte) : Word16 := b1 ++ b0

/-- Four bytes at rising offsets as a 32-bit value, little-endian (R53). -/
def le32 (b0 b1 b2 b3 : Byte) : Word32 := (b3 ++ b2) ++ (b1 ++ b0)

/-- `MemRead(a, 2)` of a frame (R10): no value when it is not wholly inside the frame. -/
def memRead16 (f : List Byte) (a : Nat) : Option Word16 :=
  match f[a]?, f[a + 1]? with
  | some b0, some b1 => some (le16 b0 b1)
  | _, _ => none

/-- `MemRead(a, 4)` of a frame (R10): no value when it is not wholly inside the frame. -/
def memRead32 (f : List Byte) (a : Nat) : Option Word32 :=
  match f[a]?, f[a + 1]?, f[a + 2]?, f[a + 3]? with
  | some b0, some b1, some b2, some b3 => some (le32 b0 b1 b2 b3)
  | _, _, _, _ => none

/-- The words of a burst frame in index order, `floor(L / 2)` of them, an odd last byte read by nothing
(R54, R77, R79 (c), (h)). -/
def frameWords : List Byte → List Word16
  | b0 :: b1 :: rest => le16 b0 b1 :: frameWords rest
  | [_] => []
  | [] => []

/-- The range field, `(w & RANGE_MASK) >> RANGE_POS` (R79 (d)). -/
def rangeBits (w : Word16) : RangeBits := ((w &&& Config.rangeMask) >>> Config.rangePos).setWidth 2

/-- The ADC code, `w & ADC_MASK` (R79 (e)). -/
def codeOf (w : Word16) : Code := (w &&& Config.adcMask).setWidth 14

/-- `RANGE_MAP` applied to a field value (R78, R161). -/
def rangeMap (m : RangeMap) (r : RangeBits) : MeasurementRange :=
  if r = 0b00#2 then m.at00
  else if r = 0b01#2 then m.at01
  else if r = 0b10#2 then m.at10
  else m.at11

/-- The field value `RANGE_MAP` sends to a range. -/
def rangeField (m : RangeMap) (x : MeasurementRange) : RangeBits :=
  if m.at00 = x then 0b00#2
  else if m.at01 = x then 0b01#2
  else if m.at10 = x then 0b10#2
  else 0b11#2

/-- The range of a sample word (R160). -/
def wordRange (m : RangeMap) (w : Word16) : MeasurementRange := rangeMap m (rangeBits w)

/-- A sample word from its two fields, the range field the more significant (R78). -/
def joinWord (r : RangeBits) (code : Code) : Word16 := r ++ code

/-- The two bytes of a sample word at rising offsets (R53). -/
def bytesOf16 (w : Word16) : List Byte := [w.setWidth 8, (w >>> 8).setWidth 8]

/-- The four bytes of a 32-bit value at rising offsets (R53). -/
def bytesOf32 (v : Word32) : List Byte :=
  [v.setWidth 8, (v >>> 8).setWidth 8, (v >>> 16).setWidth 8, (v >>> 24).setWidth 8]

/-- `n` bytes of a number, the least significant first (R53). -/
def bytesOfNat : Nat → Nat → List Byte
  | 0, _ => []
  | n + 1, w => BitVec.ofNat 8 w :: bytesOfNat n (w / 256)

end Sys2Proof.Machine
end

