-- ==== Sys2Proof/Machine/Ops.lean ====
section
/-! DEFINITION. The named operations over the frame buffer and the registers, shared by the meanings:
append and hand-off (`20_memory.md` R51, R52), events, errors and results (`60_exceptions.md` R204, R212),
`session_clear` and the end of a session (`10_state.md` R39, `44_control_ops.md` R185). -/

namespace Sys2Proof.Machine

/-- The byte of a cell, if it is listed. -/
def Memory.read : Memory → Nat → Option Byte
  | [], _ => none
  | (b, v) :: m, a => if a = b then some v else Memory.read m a

/-- `MemWrite(a, 1, v)` (R10), keeping the offsets rising. -/
def Memory.write : Memory → Nat → Byte → Memory
  | [], a, v => [(a, v)]
  | (b, w) :: m, a, v =>
    if a < b then (a, v) :: (b, w) :: m
    else if a = b then (a, v) :: m
    else (b, w) :: Memory.write m a v

/-- The bytes of `n` cells from offset `a` on: a copy, or nothing if one of them is unlisted. -/
def Memory.slice (m : Memory) (a : Nat) : Nat → Option (List Byte)
  | 0 => some []
  | n + 1 =>
    match m.read a, Memory.slice m (a + 1) n with
    | some b, some bs => some (b :: bs)
    | _, _ => none

/-- Append one event to `ev_out` (R10 `emit`). -/
def emit (e : HostEvent) (s : State) : State := { s with evOut := s.evOut ++ [e] }

/-- Taking an error in a step, `raise K(info)`: one `error` event, nothing saved, nothing restored; the step
then goes on as its rule says (R204). There is no return from it (R211). -/
def raise (k : ErrKind) (info : Info) (s : State) : State := emit (.error (mkErr k info)) s

/-- The synchronous result of a host call (R10 `return`). -/
def giveResult (r : CallResult) (s : State) : State := { s with results := s.results ++ [r] }

/-- What an inner operation hands back when it is a step of its own (log 7). -/
def handBack (r : OpResult) (s : State) : State := { s with opOut := s.opOut ++ [r] }

/-- Append one action to `tx_out` (R31). -/
def transmit (a : TxAction) (s : State) : State := { s with txOut := s.txOut ++ [a] }

/-- `append(v)`, the block's only store (R51). -/
def append (v : Byte) (s : State) : State :=
  if hasRoom s.cfg s.rxLen then
    { s with rxBuf := s.rxBuf.write s.rxLen v, rxLen := s.rxLen + 1 }
  else
    { (if reportsOverflow s.cfg s.rxLen s.rxOvf then raise .overflow .none s else s) with
        rxOvf := ovfAfterAppend s.cfg s.rxLen s.rxOvf }

/-- The completed frame `rx_buf[0..rx_len)` (R52). -/
def takeFrame (s : State) : Option (List Byte) := s.rxBuf.slice 0 s.rxLen

/-- The clear that ends a frame (R52, R102). -/
def clearFrame (s : State) : State :=
  { s with rxBuf := [], rxLen := 0, rxOvf := false, rxState := .normal }

/-- `session_clear` (R39). -/
def sessionClear (s : State) : State :=
  { s with rxState := .normal, rxBuf := [], rxLen := 0, rxOvf := false, ts := 0#64 }

/-- What STOP does from `Running`, and a transport failure with it (R185, R186, R189). -/
def endSession (s : State) : State := { sessionClear (transmit .close s) with run := .stopped }

/-- The end of a start whose transport failed (R184, R189). -/
def failOpen (cause : Option Token) (s : State) : State :=
  giveResult (.startErr (mkErr .transport (.cause cause))) { s with run := .stopped }

end Sys2Proof.Machine
end

