-- ==== Sys2Proof/Machine/Scaler.lean ====
section
/-! DEFINITION. The sample word decoder: range extractor and scaler (`43_range_scaler.md`): W.NONE, W.LOW,
W.MID, W.HIGH. -/

namespace Sys2Proof.Machine

/-- `scale(c, R)` (R166): the quotient first, then times the code, then times 1,000,000, then to binary32. -/
def scale (c : Cfg) (code : Code) (r : Word64) : Word32 :=
  let num := cfgNum c
  let t1 := num.divF c.adcScale r
  let t2 := num.mulF (num.ofNatF code.toNat) t1
  let t3 := num.mulF t2 num.microF
  num.toF32 t3

/-- W.NONE (R162). -/
def wNone : WordResult := .fail .rangeNone

/-- W.LOW, W.MID and W.HIGH are `Ok(scale(code, R))` for their resistor (R163 to R165). -/
def wScaled (c : Cfg) (code : Code) (r : Word64) : WordResult := .ok (scale c code r)

/-- The arm of the range `invalid`, which no word has under a well-formed `RANGE_MAP` (R160, R169). -/
def wInvalid : WordResult := .fail .rangeInvalid

/-- `convert_word(w, rl, rm, rh)` (R160). -/
def convertWord (c : Cfg) (rl rm rh : Word64) (w : Word16) : WordResult :=
  match wordRange c.rangeMap w with
  | .none => wNone
  | .low => wScaled c (codeOf w) rl
  | .mid => wScaled c (codeOf w) rm
  | .high => wScaled c (codeOf w) rh
  | .invalid => wInvalid

/-- W.NONE as a step: the failure handed back; the code is not used (R162). -/
def execWNone (_code : Code) (s : State) : Host.Outcome State Fault Refusal :=
  .next (handBack (.word wNone) s)

/-- W.LOW as a step (R163). -/
def execWLow (code : Code) (s : State) : Host.Outcome State Fault Refusal :=
  .next (handBack (.word (wScaled s.cfg code s.rLow)) s)

/-- W.MID as a step (R164). -/
def execWMid (code : Code) (s : State) : Host.Outcome State Fault Refusal :=
  .next (handBack (.word (wScaled s.cfg code s.rMid)) s)

/-- W.HIGH as a step (R165). -/
def execWHigh (code : Code) (s : State) : Host.Outcome State Fault Refusal :=
  .next (handBack (.word (wScaled s.cfg code s.rHigh)) s)

end Sys2Proof.Machine
end

