-- ==== Sys2Proof/Machine/Classifier.lean ====
section
/-! DEFINITION. The frame classifier and the timestamp accumulator (`42_frame_classifier.md`): FRM.AVG,
FRM.TICK, FRM.BURST. -/

namespace Sys2Proof.Machine

/-- `(ts + n) mod 2^64` (R145). -/
def tsPlus (ts : Word64) (n : Nat) : Word64 := BitVec.ofNat 64 (ts.toNat + n)

/-- FRM.AVG: the pattern as received with the `ts` before the advance, then the advance (R142). -/
def frmAvg (v : Word32) (s : State) : State :=
  { emit (.average v s.ts) s with ts := tsPlus s.ts s.cfg.tSampleUs }

/-- FRM.TICK: `ts` replaced (R143). -/
def frmTick (ticks : Word32) (s : State) : State :=
  { s with ts := BitVec.ofNat 64 (ticks.toNat * s.cfg.tTickUs) }

/-- What the loop of FRM.BURST ends in (R144): every value, or the first failing word's kind and index. -/
inductive BurstResult where
  | values (vs : List Word32)
  | failed (kind : ErrKind) (index : Nat)
deriving DecidableEq, Repr

/-- The loop of FRM.BURST over the words from index `i` on, in order, stopping at the first failure, the
values before it dropped (R144). -/
def convertWords (conv : Word16 → WordResult) : Nat → List Word16 → BurstResult
  | _, [] => .values []
  | i, w :: ws =>
    match conv w with
    | .fail k => .failed k i
    | .ok v =>
      match convertWords conv (i + 1) ws with
      | .values vs => .values (v :: vs)
      | .failed k j => .failed k j

/-- FRM.BURST: one triple for the whole burst, one event, `ts` unchanged (R144). -/
def frmBurst (f : List Byte) (s : State) : State :=
  match convertWords (convertWord s.cfg s.rLow s.rMid s.rHigh) 0 (frameWords f) with
  | .failed k i => raise k (.wordIndex i) s
  | .values vs => emit (.trigger vs (tsPlus s.ts (s.cfg.tSampleUs * (f.length / 2)))) s

/-- FRM.AVG as a step. -/
def execFrmAvg (v : Word32) (s : State) : Host.Outcome State Fault Refusal := .next (frmAvg v s)

/-- FRM.TICK as a step; the fifth byte is read by nothing (R143 (d)). -/
def execFrmTick (ticks : Word32) (_x : Byte) (s : State) : Host.Outcome State Fault Refusal :=
  .next (frmTick ticks s)

/-- FRM.BURST as a step. -/
def execFrmBurst (f : List Byte) (s : State) : Host.Outcome State Fault Refusal := .next (frmBurst f s)

/-- `classify(f)`: by length, and by nothing else (R141). -/
def classify (f : List Byte) (s : State) : State :=
  match f with
  | [b0, b1, b2, b3] => frmAvg (le32 b0 b1 b2 b3) s
  | [b0, b1, b2, b3, _] => frmTick (le32 b0 b1 b2 b3) s
  | f => frmBurst f s

end Sys2Proof.Machine
end

