-- ==== Sys2Proof/Machine/RxDecoder.lean ====
section
/-! DEFINITION. The receive decoder (`40_rx_decoder.md`): RX.ESC, RX.ETX, RX.DATA, RX.UNESC. -/

namespace Sys2Proof.Machine

/-- RX.ESC (R101). -/
def execRxEsc (s : State) : Host.Outcome State Fault Refusal :=
  .next { s with rxState := .escapePending }

/-- RX.ETX (R102): the frame is classified, unless it overflowed, and the buffer is cleared either way. -/
def execRxEtx (s : State) : Host.Outcome State Fault Refusal :=
  if s.rxOvf then .next (clearFrame s)
  else
    match takeFrame s with
    | some f => .next (clearFrame (classify f s))
    | none => .fault .frameHole

/-- RX.DATA (R103). -/
def execRxData (b : Byte) (s : State) : Host.Outcome State Fault Refusal := .next (append b s)

/-- RX.UNESC (R104): the state returns to `Normal` also when the append overflowed. -/
def execRxUnesc (b : Byte) (s : State) : Host.Outcome State Fault Refusal :=
  .next { append (xorByte b) s with rxState := .normal }

end Sys2Proof.Machine
end

