-- ==== Sys2Proof/Machine/TxEncoder.lean ====
section
/-! DEFINITION. The transmit encoder (`41_tx_encoder.md`): TX.STUFF, TX.LIT, TX.FRAME. -/

namespace Sys2Proof.Machine

/-- TX.STUFF(p) = `[ESC, p ^ XOR_MASK]` (R121). -/
def txStuff (c : Cfg) (p : Byte) : List Byte := [c.esc, xorByte p]

/-- TX.LIT(p) = `[p]` (R122). -/
def txLit (p : Byte) : List Byte := [p]

/-- `tx_byte(x)` (R123). -/
def txByte (c : Cfg) (x : Byte) : List Byte :=
  if x = c.stx ∨ x = c.etx ∨ x = c.esc then txStuff c x else txLit x

/-- `body(p)` (R123). -/
def txBody (c : Cfg) : List Byte → List Byte
  | [] => []
  | x :: p => txByte c x ++ txBody c p

/-- `encode(p) = [STX] ++ body(p) ++ [ETX]` (R123). -/
def encodeFrame (c : Cfg) (p : List Byte) : List Byte := [c.stx] ++ txBody c p ++ [c.etx]

/-- The effect of TX.FRAME: one `send` of the whole encoded sequence (R123). -/
def txFrame (p : List Byte) (s : State) : State := transmit (.send (encodeFrame s.cfg p)) s

/-- TX.STUFF of `STX` as a step (R121). -/
def execTxStuffStx (s : State) : Host.Outcome State Fault Refusal :=
  .next (handBack (.bytes (txStuff s.cfg s.cfg.stx)) s)

/-- TX.STUFF of `ETX` as a step (R121). -/
def execTxStuffEtx (s : State) : Host.Outcome State Fault Refusal :=
  .next (handBack (.bytes (txStuff s.cfg s.cfg.etx)) s)

/-- TX.STUFF of `ESC` as a step (R121). -/
def execTxStuffEsc (s : State) : Host.Outcome State Fault Refusal :=
  .next (handBack (.bytes (txStuff s.cfg s.cfg.esc)) s)

/-- TX.LIT as a step (R122). -/
def execTxLit (p : Byte) (s : State) : Host.Outcome State Fault Refusal :=
  .next (handBack (.bytes (txLit p)) s)

/-- TX.FRAME as a step: the send, and the sink's drawn answer handed back (R123). -/
def execTxFrame (p : List Byte) (outcome : SinkOutcome) (s : State) : Host.Outcome State Fault Refusal :=
  .next (handBack (.sink outcome) (txFrame p s))

end Sys2Proof.Machine
end

