-- ==== Sys2Proof/Machine/Control.lean ====
section
/-! DEFINITION. The control operations (`44_control_ops.md`): RESET, START, OPEN_DONE, STOP, SEND, SETCAL,
RXBYTE, TRANSPORT_FAIL. -/

namespace Sys2Proof.Machine

/-- RESET (R182): every piece of state to its power-on value. The events still to come stay (R91), the
model's traces of results start anew (log 8). -/
def execReset (s : State) : Host.Outcome State Fault Refusal :=
  .next { sessionClear s with
            run := .stopped, rLow := rLowDefault s.cfg, rMid := rMidDefault s.cfg,
            rHigh := rHighDefault s.cfg, evOut := [], txOut := [], results := [], opOut := [] }

/-- START (R183). -/
def execStart (descriptor : Token) (s : State) : Host.Outcome State Fault Refusal :=
  match s.run with
  | .stopped => .next { transmit (.openLink descriptor) s with run := .starting }
  | .starting | .running => .next (giveResult (.startErr (mkErr .doubleStart .none)) s)

/-- OPEN_DONE (R184). -/
def execOpenDone (verdict : Verdict) (s : State) : Host.Outcome State Fault Refusal :=
  match s.run with
  | .starting =>
    match verdict with
    | .ok md => .next (giveResult (.startOk md) { sessionClear s with run := .running })
    | .metaFail =>
      .next (giveResult (.startErr (mkErr .metadata .none)) { transmit .close s with run := .stopped })
    | .transportFail cause => .next (failOpen cause s)
  | .stopped | .running => .next s

/-- STOP (R185). -/
def execStop (s : State) : Host.Outcome State Fault Refusal :=
  match s.run with
  | .running => .next (endSession s)
  | .stopped | .starting => .next s

/-- SEND (R186): the lifecycle check, then the argument check, then TX.FRAME and the sink's drawn answer. -/
def execSend (cmd : Option (List Byte)) (outcome : SinkOutcome) (s : State) :
    Host.Outcome State Fault Refusal :=
  match s.run with
  | .stopped | .starting => .next (giveResult (.sendErr (mkErr .notRunning .none)) s)
  | .running =>
    match cmd with
    | none => .next (giveResult (.sendErr (mkErr .badCmd .none)) s)
    | some p =>
      match outcome with
      | .ok => .next (giveResult .sendOk (txFrame p s))
      | .fail cause =>
        .next (giveResult (.sendErr (mkErr .transport (.cause cause))) (endSession (txFrame p s)))

/-- SETCAL (R187): the three registers at once, in any mode; refused outside the host's duty (R187 (d),
R238; log 15). -/
def execSetcal (low mid high : Word64) (s : State) : Host.Outcome State Fault Refusal :=
  if (cfgNum s.cfg).validF low && (cfgNum s.cfg).validF mid && (cfgNum s.cfg).validF high then
    .next { s with rLow := low, rMid := mid, rHigh := high }
  else .refused .calibrationOutOfDuty

/-- RXBYTE (R188): dispatch by R100 while `Running`, else the byte is dropped. -/
def execRxbyte (b : Byte) (s : State) : Host.Outcome State Fault Refusal :=
  match s.run with
  | .running =>
    match s.rxState with
    | .normal =>
      if b = s.cfg.esc then execRxEsc s
      else if b = s.cfg.etx then execRxEtx s
      else execRxData b s
    | .escapePending => execRxUnesc b s
  | .stopped | .starting => .next s

/-- TRANSPORT_FAIL (R189). -/
def execTransportFail (cause : Option Token) (s : State) : Host.Outcome State Fault Refusal :=
  match s.run with
  | .running => .next (endSession (raise .transport (.cause cause) s))
  | .starting => .next (failOpen cause s)
  | .stopped => .next s

end Sys2Proof.Machine
end

