-- ==== Sys2Proof/Machine/Dispatch.lean ====
section
/-! DEFINITION. One arm per operation, each one call of its meaning. -/

namespace Sys2Proof.Machine

def exec (i : Instr) (s : State) : Host.Outcome State Fault Refusal :=
  match i with
  | .rxEsc => Sys2Proof.Machine.execRxEsc s
  | .rxEtx => Sys2Proof.Machine.execRxEtx s
  | .rxData b => Sys2Proof.Machine.execRxData b s
  | .rxUnesc b => Sys2Proof.Machine.execRxUnesc b s
  | .txStuffStx => Sys2Proof.Machine.execTxStuffStx s
  | .txStuffEtx => Sys2Proof.Machine.execTxStuffEtx s
  | .txStuffEsc => Sys2Proof.Machine.execTxStuffEsc s
  | .txLit p => Sys2Proof.Machine.execTxLit p s
  | .txFrame p outcome => Sys2Proof.Machine.execTxFrame p outcome s
  | .frmAvg v => Sys2Proof.Machine.execFrmAvg v s
  | .frmTick ticks x => Sys2Proof.Machine.execFrmTick ticks x s
  | .frmBurst f => Sys2Proof.Machine.execFrmBurst f s
  | .wNone code => Sys2Proof.Machine.execWNone code s
  | .wLow code => Sys2Proof.Machine.execWLow code s
  | .wMid code => Sys2Proof.Machine.execWMid code s
  | .wHigh code => Sys2Proof.Machine.execWHigh code s
  | .reset => Sys2Proof.Machine.execReset s
  | .start descriptor => Sys2Proof.Machine.execStart descriptor s
  | .openDone verdict => Sys2Proof.Machine.execOpenDone verdict s
  | .stop => Sys2Proof.Machine.execStop s
  | .send cmd outcome => Sys2Proof.Machine.execSend cmd outcome s
  | .setcal low mid high => Sys2Proof.Machine.execSetcal low mid high s
  | .rxbyte b => Sys2Proof.Machine.execRxbyte b s
  | .transportFail cause => Sys2Proof.Machine.execTransportFail cause s

end Sys2Proof.Machine
end

