-- ==== Sys2Proof/Decode.lean ====
section
/-! DEFINITION. From an input event to the operation it selects (`30_encoding.md` R71, R72, R75 to R78, R82),
the encoder from an operation to the event that carries it, and the host's reading of a table word. -/

namespace Sys2Proof

open Machine

/-- What an event decodes to: the operation it selects; or none, because no row of its format is selected
in this mode; or a rejection, because the datum has not its port's width. -/
inductive Decoded where
  | op (i : Instr)
  | notSelected
  | datumWidth
deriving DecidableEq, Repr

/-- Format RXB (R71, R100). -/
def decodeRxb (x : Ctx) (b : Byte) : Instr :=
  match x.rxState with
  | .normal => if b = x.cfg.esc then .rxEsc else if b = x.cfg.etx then .rxEtx else .rxData b
  | .escapePending => .rxUnesc b

/-- Format TXB (R72). -/
def decodeTxb (c : Cfg) (p : Byte) : Instr :=
  if p = c.stx then .txStuffStx
  else if p = c.etx then .txStuffEtx
  else if p = c.esc then .txStuffEsc
  else .txLit p

/-- A completed frame, by its length and nothing else (R141, R75 to R77). -/
def decodeFrame : List Byte → Instr
  | [b0, b1, b2, b3] => .frmAvg (le32 b0 b1 b2 b3)
  | [b0, b1, b2, b3, x] => .frmTick (le32 b0 b1 b2 b3) x
  | f => .frmBurst f

/-- Format W16, by the range field (R78, R160). The `invalid` arm is unreachable under a well-formed
`RANGE_MAP` (R169). -/
def decodeWord (c : Cfg) (w : Word16) : Decoded :=
  match wordRange c.rangeMap w with
  | .none => .op (.wNone (codeOf w))
  | .low => .op (.wLow (codeOf w))
  | .mid => .op (.wMid (codeOf w))
  | .high => .op (.wHigh (codeOf w))
  | .invalid => .notSelected

/-- The operation of a call (R70). -/
def decodeCall : Call → Instr
  | .reset => .reset
  | .start d => .start d
  | .openDone v => .openDone v
  | .stop => .stop
  | .send cmd o => .send cmd o
  | .setcal l m h => .setcal l m h
  | .rxbyte b => .rxbyte b
  | .transportFail cause => .transportFail cause

/-- A datum at a port, while `Running`. -/
def decodeDatum (x : Ctx) : Port → List Byte → Decoded
  | .rx, [b] => .op (decodeRxb x b)
  | .rx, _ => .datumWidth
  | .payload, [p] => .op (decodeTxb x.cfg p)
  | .payload, _ => .datumWidth
  | .command o, p => .op (.txFrame p o)
  | .frame, f => .op (decodeFrame f)
  | .word, [b0, b1] => decodeWord x.cfg (le16 b0 b1)
  | .word, _ => .datumWidth

/-- The decoder (R82): a call is its operation in every mode; a datum selects a row of its format only while
`run = Running` (log 6). -/
def decode (x : Ctx) : Event → Decoded
  | .call c => .op (decodeCall c)
  | .datum port bytes =>
    match x.run with
    | .running => decodeDatum x port bytes
    | .stopped | .starting => .notSelected

/-- The event that carries an operation, written from the same encodings (R70 to R78). -/
def encode (c : Cfg) : Instr → Event
  | .rxEsc => .datum .rx [c.esc]
  | .rxEtx => .datum .rx [c.etx]
  | .rxData b => .datum .rx [b]
  | .rxUnesc b => .datum .rx [b]
  | .txStuffStx => .datum .payload [c.stx]
  | .txStuffEtx => .datum .payload [c.etx]
  | .txStuffEsc => .datum .payload [c.esc]
  | .txLit p => .datum .payload [p]
  | .txFrame p o => .datum (.command o) p
  | .frmAvg v => .datum .frame (bytesOf32 v)
  | .frmTick ticks x => .datum .frame (bytesOf32 ticks ++ [x])
  | .frmBurst f => .datum .frame f
  | .wNone code => .datum .word (bytesOf16 (joinWord (rangeField c.rangeMap .none) code))
  | .wLow code => .datum .word (bytesOf16 (joinWord (rangeField c.rangeMap .low) code))
  | .wMid code => .datum .word (bytesOf16 (joinWord (rangeField c.rangeMap .mid) code))
  | .wHigh code => .datum .word (bytesOf16 (joinWord (rangeField c.rangeMap .high) code))
  | .reset => .call .reset
  | .start d => .call (.start d)
  | .openDone v => .call (.openDone v)
  | .stop => .call .stop
  | .send cmd o => .call (.send cmd o)
  | .setcal l m h => .call (.setcal l m h)
  | .rxbyte b => .call (.rxbyte b)
  | .transportFail cause => .call (.transportFail cause)

/-- The event a table word stands for, by its width (log 29): 8 bits are a stream byte, 16 bits a sample
word, any other number of whole bytes a completed frame. -/
def tableEvent (nbits w : Nat) : Option Event :=
  if nbits % 8 ≠ 0 then none
  else if nbits = 8 then some (.datum .rx (bytesOfNat 1 w))
  else if nbits = 16 then some (.datum .word (bytesOfNat 2 w))
  else some (.datum .frame (bytesOfNat (nbits / 8) w))

/-- The mode a table word is read in: `Running`, `Normal`, the example configuration (log 29). -/
def tableCtx : Ctx := { cfg := Config.cfgEx, run := .running, rxState := .normal }

/-- The operation the decoder reads from a table word. -/
def decodeTableWord (nbits w : Nat) : Option Instr :=
  match tableEvent nbits w with
  | none => none
  | some e =>
    match decode tableCtx e with
    | .op i => some i
    | .notSelected | .datumWidth => none

end Sys2Proof
end

