-- ==== Sys2Proof/Machine/Fetch.lean ====
section
/-! DEFINITION. Where the next operation comes from: the first of the coming input events (`30_encoding.md`
R91; log 5, log 29). -/

namespace Sys2Proof.Machine

/-- The first coming event and the events after it. -/
def takeEvent (s : State) : Option (Event × List Event) :=
  match s.input with
  | [] => none
  | e :: rest => some (e, rest)

/-- A state whose next event is the datum of a table word: the event first in `input`, the session `Running`
and the receive state `Normal`, as the rows of the table ask (log 29). -/
def placeWord (s : State) (nbits w : Nat) : State :=
  match tableEvent nbits w with
  | none => s
  | some e => { s with run := .running, rxState := .normal, input := e :: s.input }

end Sys2Proof.Machine
end

