-- ==== Sys2Proof/Machine/Step.lean ====
section
/-! DEFINITION. One step: one input event, processed whole (`00_scope.md` R12). -/

namespace Sys2Proof.Machine

/-- Take the next event, decode it, run the operation. With no event the block waits, unchanged (R13; log
5). A datum no row is selected for is dropped, as R188 drops a byte (log 6). -/
def step (s : State) : Host.Outcome State Fault Refusal :=
  match takeEvent s with
  | none => .next s
  | some (e, rest) =>
    match decode s.ctx e with
    | .op i => exec i { s with input := rest }
    | .notSelected => .next { s with input := rest }
    | .datumWidth => .refused .datumWidth

/-- The state whose next step runs the operation of a table word. -/
def State.withFetchWord (s : State) (nbits w : Nat) : State := placeWord s nbits w

end Sys2Proof.Machine
end

