-- ==== Sys2Proof/Machine/Stream.lean ====
section
/-! DEFINITION. Byte streams and event sequences: the functional form of the receive decoder
(`40_rx_decoder.md` R105), the pseudo-operations `rxframe` and `loopback` (`30_encoding.md` R92), and what a
clean configuration is (`41_tx_encoder.md` R126). The machine calls none of them: statements do. -/

namespace Sys2Proof.Machine

/-- A state of the functional decoder of R105. -/
abbrev DecoderState := RxState × List Byte

/-- `step` of R105: the next decoder state, and the frame completed, if any. -/
def decoderStep (c : Cfg) : DecoderState → Byte → DecoderState × List (List Byte)
  | (.normal, buf), b =>
    if b = c.esc then ((.escapePending, buf), [])
    else if b = c.etx then ((.normal, []), [buf])
    else ((.normal, buf ++ [b]), [])
  | (.escapePending, buf), b => ((.normal, buf ++ [xorByte b]), [])

/-- `run` of R105: the last decoder state, and the frames completed, in order. -/
def decoderRun (c : Cfg) : DecoderState → List Byte → DecoderState × List (List Byte)
  | st, [] => (st, [])
  | st, b :: bs =>
    let r := decoderStep c st b
    let r' := decoderRun c r.1 bs
    (r'.1, r.2 ++ r'.2)

/-- The frames of a list classified in order (R105). -/
def classifyAll : List (List Byte) → State → State
  | [], s => s
  | f :: fs, s => classifyAll fs (classify f s)

/-- One RXBYTE per byte (R90 `rx`). -/
def rxEvents (bs : List Byte) : List Event := bs.map fun b => .call (.rxbyte b)

/-- `rxframe p` (R92): how a conforming device puts the payload `p` on the wire. -/
def rxframe (c : Cfg) (p : List Byte) : List Event := rxEvents (txBody c p ++ [c.etx])

/-- `loopback p` (R92): a send, then every byte it handed to the sink received back. -/
def loopback (c : Cfg) (p : List Byte) : List Event :=
  .call (.send (some p) .ok) :: rxEvents (encodeFrame c p)

/-- `k(p)` of R125: how many bytes of the payload are reserved. -/
def markerCount (c : Cfg) (p : List Byte) : Nat := p.countP c.isMarker

/-- A clean configuration (R126): no marker's escape image is itself a marker. -/
def cleanCfg (c : Cfg) : Bool :=
  !c.isMarker (xorByte c.stx) && !c.isMarker (xorByte c.etx) && !c.isMarker (xorByte c.esc)

/-- The buffer that holds exactly the bytes of `l`. -/
def bufferOf (l : List Byte) : Memory := (List.range l.length).zip l

end Sys2Proof.Machine
end

