-- ==== Sys2Proof/Safety.lean ====
section
/-! DEFINITION. What the statements speak of: the invariants of the state, and the transitions of the
lifecycle. -/

namespace Sys2Proof.Machine

/-- `rx_buf` lists exactly the cells below `rx_len` (R20 `len(rx_buf) = rx_len`, R37 (d)). -/
abbrev bufferExact (s : State) : Prop := s.rxBuf.map Prod.fst = List.range s.rxLen

/-- `rx_len ≤ MAX_FRAME_LEN` (R37 (d)). -/
abbrev lengthBounded (s : State) : Prop := ∀ m ∈ s.cfg.maxFrameLen, s.rxLen ≤ m

/-- The three calibration registers are finite and strictly positive (R37 (b)). -/
abbrev calibrationValid (s : State) : Prop :=
  (cfgNum s.cfg).validF s.rLow = true ∧ (cfgNum s.cfg).validF s.rMid = true ∧
    (cfgNum s.cfg).validF s.rHigh = true

/-- The session state holds its cleared values (R39). -/
abbrev sessionCleared (s : State) : Prop :=
  s.rxState = .normal ∧ s.rxBuf = [] ∧ s.rxLen = 0 ∧ s.rxOvf = false ∧ s.ts = 0#64

/-- The invariants of R37 and R215 together. -/
structure State.Inv (s : State) : Prop where
  cfg         : s.cfg.wf = true
  buffer      : bufferExact s
  bounded     : lengthBounded s
  calibration : calibrationValid s
  /-- A lost byte means the buffer is full (R23, R51). -/
  overflow    : s.rxOvf = true → hasRoom s.cfg s.rxLen = false
  /-- Outside `Running` the session state holds its cleared values (R215). -/
  idle        : s.run ≠ .running → sessionCleared s

/-- The verdict lets the start succeed (R184). -/
def verdictOk (v : Verdict) : Bool :=
  match v with
  | .ok _ => true
  | .metaFail | .transportFail _ => false

/-- What `run` is after an operation (R180, R215): RESET, START, OPEN_DONE, STOP, a failed SEND and
TRANSPORT_FAIL move it as the table says, and nothing else does. -/
def lifecycleAfter (i : Instr) (r : Lifecycle) : Lifecycle :=
  match i with
  | .reset => .stopped
  | .start _ => if r = .stopped then .starting else r
  | .openDone v => if r = .starting then (if verdictOk v then .running else .stopped) else r
  | .stop => if r = .running then .stopped else r
  | .send cmd o => if r = .running ∧ cmd.isSome ∧ o ≠ .ok then .stopped else r
  | .transportFail _ => .stopped
  | .rxEsc | .rxEtx | .rxData _ | .rxUnesc _ | .txStuffStx | .txStuffEtx | .txStuffEsc | .txLit _
  | .txFrame _ _ | .frmAvg _ | .frmTick _ _ | .frmBurst _ | .wNone _ | .wLow _ | .wMid _ | .wHigh _
  | .setcal _ _ _ | .rxbyte _ => r

/-- The range of a word: `RANGE_MAP` at its bits 15:14, read as the number `floor(w / 2^14)` (R161). -/
def rangeOf (c : Cfg) (w : Word16) : MeasurementRange :=
  match w.toNat / 2 ^ 14 with
  | 0 => c.rangeMap.at00
  | 1 => c.rangeMap.at01
  | 2 => c.rangeMap.at10
  | _ => c.rangeMap.at11

/-- The range is one of the three that measure (R29). -/
def measures : MeasurementRange → Bool
  | .low | .mid | .high => true
  | .none | .invalid => false

/-- The resistor of a range that measures (R160). -/
def resistorOf (s : State) : MeasurementRange → Word64
  | .low => s.rLow
  | .mid => s.rMid
  | .high | .none | .invalid => s.rHigh

/-- The error kind of a range that does not measure (R162, R169). -/
def rangeError : MeasurementRange → ErrKind
  | .invalid => .rangeInvalid
  | .none | .low | .mid | .high => .rangeNone

/-- The value of a word whose range measures: bits 13:0 scaled by its range's resistor (R160, R166). -/
def wordValue (s : State) (w : Word16) : Word32 :=
  scale s.cfg (w.extractLsb' 0 14) (resistorOf s (rangeOf s.cfg w))

/-- `rx_len < MAX_FRAME_LEN`, always so when unbounded (R51). -/
abbrev roomLeft (s : State) : Prop := ∀ m ∈ s.cfg.maxFrameLen, s.rxLen < m

/-- A datum has its port's width (R7, R70). -/
def rightWidth : Event → Bool
  | .call _ => true
  | .datum .rx bs => decide (bs.length = 1)
  | .datum .payload bs => decide (bs.length = 1)
  | .datum (.command _) _ => true
  | .datum .frame _ => true
  | .datum .word bs => decide (bs.length = 2)

/-- A call keeps the host's duty of R238: the values of a SETCAL are finite and strictly positive. -/
def inDuty (c : Cfg) : Event → Bool
  | .call (.setcal l m h) => (cfgNum c).validF l && (cfgNum c).validF m && (cfgNum c).validF h
  | .call _ => true
  | .datum _ _ => true

/-- A state with other output traces in front (R33). -/
def withHistory (ev : List HostEvent) (tx : List TxAction) (s : State) : State :=
  { s with evOut := ev ++ s.evOut, txOut := tx ++ s.txOut }

/-- Apply a function to the state of a next outcome. -/
def mapNext (g : State → State) :
    Host.Outcome State Fault Refusal → Host.Outcome State Fault Refusal
  | .next s => .next (g s)
  | .fault r => .fault r
  | .refused r => .refused r

/-- The next state, if there is one. -/
def nextOf : Host.Outcome State Fault Refusal → Option State
  | .next s => some s
  | .fault _ | .refused _ => none

end Sys2Proof.Machine
end

