-- ==== Sys2Proof/Certificates/Slice0/Obligations.lean ====
section
/-! DEFINITION. The statements for the provers. Each docstring names the rule of `spec/` it formalises, or the
sections it rests on and the log entry of the choice in it. A next state is given whole, so that what a
statement does not write is what the operation leaves unchanged, memory included. -/

open Sys2Proof Sys2Proof.Machine

/-! ## Decoding and the step -/

/-- `00_scope.md` R12, `30_encoding.md` R82: a step takes the next event and runs the operation it decodes to,
in the same state with that event taken off the list (log 5). -/
def Obligations.StepRunsTheDecodedOperation : Prop :=
  ∀ (s : State) (e : Event) (rest : List Event) (i : Instr),
    s.input = e :: rest → decode s.ctx e = .op i → step s = exec i { s with input := rest }

/-- The model's choice (logs 5, 6, 28): with no event the block waits; a datum no row is selected for is
dropped; a datum of the wrong width is refused. -/
def Obligations.StepWithoutAnOperation : Prop :=
  (∀ s : State, s.input = [] → step s = .next s) ∧
  (∀ (s : State) (port : Port) (bytes : List Byte) (rest : List Event),
    s.input = .datum port bytes :: rest → s.run ≠ .running → step s = .next { s with input := rest }) ∧
  (∀ (s : State) (e : Event) (rest : List Event),
    s.input = e :: rest → s.run = .running → rightWidth e = false → step s = .refused .datumWidth)

/-- Words written out from the encodings of `30_encoding.md` R71 to R78 under `CFG_EX`. The values of `CFG_EX`
are the model's choice of a configuration (log 1); that field value 1 is Low and 2 is Mid is the spec's own
decision D7 (log 14), and that the field is bits 15:14 its decision D6 (log 14). -/
def Obligations.WrittenWordsDecode : Prop :=
  decode tableCtx (.datum .rx [0x1F#8]) = .op .rxEsc ∧
  decode tableCtx (.datum .payload [0x02#8]) = .op .txStuffStx ∧
  decode tableCtx (.datum .frame [0x00#8, 0x00#8, 0x80#8, 0x3F#8]) = .op (.frmAvg 0x3F800000#32) ∧
  decode tableCtx (.datum .frame [0xE8#8, 0x03#8, 0x00#8, 0x00#8, 0xFF#8]) = .op (.frmTick 1000#32 0xFF#8) ∧
  decode tableCtx (.datum .word [0x64#8, 0x40#8]) = .op (.wLow 100#14) ∧
  decode tableCtx (.datum .word [0x34#8, 0x92#8]) = .op (.wMid 4660#14)

/-- Decoding undoes encoding, for every well-formed operation in a mode that selects it, under every
well-formed configuration (`30_encoding.md` R70 to R78, R82; a well-formed `RANGE_MAP` names each of the four
ranges once, D7, log 14). -/
def Obligations.DecodeInvertsEncode : Prop :=
  ∀ (x : Ctx) (i : Instr), x.cfg.wf = true → i.wf x.cfg = true → i.selectedIn x = true →
    decode x (encode x.cfg i) = .op i

/-- Encoding undoes decoding: the operation an event decodes to is well-formed and selected, and no bit of the
event is dropped; for a sample word, under a `RANGE_MAP` that names each range once (log 14). -/
def Obligations.EncodeInvertsDecode : Prop :=
  ∀ (x : Ctx) (e : Event) (i : Instr), decode x e = .op i →
    i.wf x.cfg = true ∧ i.selectedIn x = true ∧
    (i.format ≠ .w16 ∨ x.cfg.rangeMap.wf = true → encode x.cfg i = e)

/-- `20_memory.md` section 2, `30_encoding.md` section 2: the float, the tick counter and the words of a burst
are little-endian, and an odd last byte of a burst and the fifth byte of a tick frame are read by nothing
(log 22). -/
def Obligations.FramesReadLittleEndian : Prop :=
  (∀ b0 b1 b2 b3 : Byte, ∃ v : Word32, decodeFrame [b0, b1, b2, b3] = .frmAvg v ∧
    v.toNat = b0.toNat + 2 ^ 8 * b1.toNat + 2 ^ 16 * b2.toNat + 2 ^ 24 * b3.toNat) ∧
  (∀ b0 b1 b2 b3 x : Byte, ∃ k : Word32, decodeFrame [b0, b1, b2, b3, x] = .frmTick k x ∧
    k.toNat = b0.toNat + 2 ^ 8 * b1.toNat + 2 ^ 16 * b2.toNat + 2 ^ 24 * b3.toNat) ∧
  (∀ (f : List Byte), (frameWords f).length = f.length / 2) ∧
  (∀ (f : List Byte) (i : Nat) (w : Word16), (frameWords f)[i]? = some w →
    ∃ b0 b1 : Byte, f[2 * i]? = some b0 ∧ f[2 * i + 1]? = some b1 ∧ w.toNat = b0.toNat + 256 * b1.toNat)

/-- `42_frame_classifier.md` R141: "Dispatch by length, and by nothing else". -/
def Obligations.FramesAreClassifiedByLength : Prop :=
  ∀ f : List Byte,
    (f.length = 4 → ∃ v, decodeFrame f = .frmAvg v) ∧
    (f.length = 5 → ∃ k x, decodeFrame f = .frmTick k x) ∧
    (f.length ≠ 4 → f.length ≠ 5 → decodeFrame f = .frmBurst f)

/-! ## The receive decoder -/

/-- `40_rx_decoder.md` R100: while `Running`, RXBYTE dispatches exactly one of the four operations. -/
def Obligations.RxbyteDispatches : Prop :=
  ∀ (s : State) (b : Byte), s.run = .running →
    (s.rxState = .normal → b = s.cfg.esc → exec (.rxbyte b) s = exec .rxEsc s) ∧
    (s.rxState = .normal → b ≠ s.cfg.esc → b = s.cfg.etx → exec (.rxbyte b) s = exec .rxEtx s) ∧
    (s.rxState = .normal → b ≠ s.cfg.esc → b ≠ s.cfg.etx → exec (.rxbyte b) s = exec (.rxData b) s) ∧
    (s.rxState = .escapePending → exec (.rxbyte b) s = exec (.rxUnesc b) s)

/-- `44_control_ops.md` section 2 (RXBYTE): outside `Running` the byte is dropped without trace (the spec's
decision D17, log 25). -/
def Obligations.RxbyteDroppedOutsideRunning : Prop :=
  ∀ (s : State) (b : Byte), s.run ≠ .running → exec (.rxbyte b) s = .next s

/-- RXBYTE always completes on a buffer that lists its cells, writes receive state, `ts` and the event trace
alone, and emits at most one event (`60_exceptions.md` section 3; the mode outside `Running` rests on D17,
log 25). -/
def Obligations.RxbyteCompletes : Prop :=
  ∀ (s : State) (b : Byte), bufferExact s →
    ∃ (t : State) (ev : List HostEvent), exec (.rxbyte b) s = .next t ∧ ev.length ≤ 1 ∧
      t = { s with rxState := t.rxState, rxBuf := t.rxBuf, rxLen := t.rxLen, rxOvf := t.rxOvf, ts := t.ts,
                   evOut := s.evOut ++ ev } ∧
      bufferExact t

/-- `40_rx_decoder.md` R101. -/
def Obligations.RxEscSetsEscapePending : Prop :=
  ∀ s : State, exec .rxEsc s = .next { s with rxState := .escapePending }

/-- `40_rx_decoder.md` section 2, `20_memory.md` section 1: below the bound RX.DATA stores its byte at
`rx_len`, `STX` included (the spec's decision D2, log 13), and leaves every other cell and all else alone. -/
def Obligations.RxDataAppends : Prop :=
  ∀ (s : State) (b : Byte), roomLeft s →
    ∃ t : State, exec (.rxData b) s = .next t ∧ t.rxLen = s.rxLen + 1 ∧
      t.rxBuf.read s.rxLen = some b ∧ (∀ a, a ≠ s.rxLen → t.rxBuf.read a = s.rxBuf.read a) ∧
      t = { s with rxBuf := t.rxBuf, rxLen := t.rxLen }

/-- `40_rx_decoder.md` section 2: below the bound RX.UNESC stores its byte XOR `0x20` at `rx_len` and returns to
`Normal`, whatever the byte, and leaves every other cell and all else alone. -/
def Obligations.RxUnescAppends : Prop :=
  ∀ (s : State) (b : Byte), roomLeft s →
    ∃ t : State, exec (.rxUnesc b) s = .next t ∧ t.rxLen = s.rxLen + 1 ∧ t.rxState = .normal ∧
      t.rxBuf.read s.rxLen = some (b ^^^ 0x20#8) ∧
      (∀ a, a ≠ s.rxLen → t.rxBuf.read a = s.rxBuf.read a) ∧
      t = { s with rxBuf := t.rxBuf, rxLen := t.rxLen, rxState := .normal }

/-- `20_memory.md` section 1: at the bound the byte is dropped, the flag set, and E_OVERFLOW reported once per
frame; RX.UNESC returns to `Normal` all the same (the spec's decision D5, log 12). -/
def Obligations.AppendAtTheBound : Prop :=
  ∀ (s : State) (b : Byte) (m : Nat), s.cfg.maxFrameLen = some m → m ≤ s.rxLen →
    (s.rxOvf = false →
      exec (.rxData b) s = .next { s with
        rxOvf := true,
        evOut := s.evOut ++ [.error { kind := .overflow, stage := .codec, info := .none }] } ∧
      exec (.rxUnesc b) s = .next { s with
        rxOvf := true, rxState := .normal,
        evOut := s.evOut ++ [.error { kind := .overflow, stage := .codec, info := .none }] }) ∧
    (s.rxOvf = true →
      exec (.rxData b) s = .next s ∧ exec (.rxUnesc b) s = .next { s with rxState := .normal })

/-- `40_rx_decoder.md` section 2, `20_memory.md` section 1: RX.ETX runs the frame operation of the bytes
received, in order, and clears the buffer whatever that operation does; a frame that lost a byte is discarded
without classification (the spec's decision D5, log 12). -/
def Obligations.RxEtxEndsTheFrame : Prop :=
  ∀ s : State,
    (bufferExact s → s.rxOvf = false →
      ∃ u : State, exec (decodeFrame (s.rxBuf.map Prod.snd)) s = .next u ∧
        exec .rxEtx s = .next { u with rxState := .normal, rxBuf := [], rxLen := 0, rxOvf := false }) ∧
    (s.rxOvf = true →
      exec .rxEtx s = .next { s with rxState := .normal, rxBuf := [], rxLen := 0, rxOvf := false })

/-- `30_encoding.md` R81: `ESC` changes how the next byte is decoded, and only the next byte, whatever that byte
is: it does not nest and no terminator cancels it. A byte that finds no room still ends the prefix. -/
def Obligations.EscapePrefixTakesOneByte : Prop :=
  ∀ (s : State) (b : Byte) (rest : List Event), s.run = .running → s.rxState = .normal →
    s.input = rxEvents [s.cfg.esc, b] ++ rest →
    ∃ t : State, Sys2Proof.core.run 2 s = .next t ∧ t.rxState = .normal ∧ t.input = rest ∧
      (roomLeft s →
        t.rxLen = s.rxLen + 1 ∧ t.rxBuf.read s.rxLen = some (b ^^^ 0x20#8) ∧
        (∀ a, a ≠ s.rxLen → t.rxBuf.read a = s.rxBuf.read a) ∧
        t = { s with rxBuf := t.rxBuf, rxLen := t.rxLen, input := rest })

/-- `40_rx_decoder.md` section 3 (R105): over any byte sequence the machine's steps are the functional decoder's,
and every completed frame is classified, in order. -/
def Obligations.StreamRefinesTheFunctionalDecoder : Prop :=
  ∀ (s : State) (bs : List Byte) (rest : List Event),
    s.run = .running → s.cfg.maxFrameLen = none → s.rxOvf = false → bufferExact s →
    s.input = rxEvents bs ++ rest →
    ∃ t : State, Sys2Proof.core.run bs.length s = .next t ∧ bufferExact t ∧
      (t.rxState, t.rxBuf.map Prod.snd)
        = (decoderRun s.cfg (s.rxState, s.rxBuf.map Prod.snd) bs).1 ∧
      t = { classifyAll (decoderRun s.cfg (s.rxState, s.rxBuf.map Prod.snd) bs).2 s with
              rxState := t.rxState, rxBuf := t.rxBuf, rxLen := t.rxLen, input := rest }

/-- `40_rx_decoder.md` section 3 (R106 (c)): receiving the stuffed body of a payload appends exactly the
payload. -/
def Obligations.StuffedBodyIsReceivedExactly : Prop :=
  ∀ (s : State) (p : List Byte) (rest : List Event),
    s.cfg.wf = true → s.cfg.maxFrameLen = none → s.run = .running → s.rxState = .normal → bufferExact s →
    s.input = rxEvents (txBody s.cfg p) ++ rest →
    Sys2Proof.core.run (txBody s.cfg p).length s
      = .next { s with rxBuf := bufferOf (s.rxBuf.map Prod.snd ++ p), rxLen := s.rxLen + p.length, input := rest }

/-- `40_rx_decoder.md` section 3 (R106 (a)), `30_encoding.md` R92: what a conforming device sends for a payload
is received as exactly one frame, the payload. -/
def Obligations.FramedPayloadIsOneFrame : Prop :=
  ∀ (s : State) (p : List Byte) (rest : List Event),
    s.cfg.wf = true → s.cfg.maxFrameLen = none → s.run = .running → s.rxState = .normal → s.rxBuf = [] →
    s.rxLen = 0 → s.rxOvf = false → s.input = rxframe s.cfg p ++ rest →
    ∃ u : State, exec (decodeFrame p) { s with input := rest } = .next u ∧
      Sys2Proof.core.run (rxframe s.cfg p).length s = .next u

/-- `40_rx_decoder.md` section 3 (R106 (b)), `70_reset_and_hazards.md` section 4 (R244): a loop-back gives the
payload with `STX` in front, not the payload (the spec's decision D2, log 13). -/
def Obligations.LoopBackPrependsStx : Prop :=
  ∀ (s : State) (p : List Byte) (rest : List Event),
    s.cfg.wf = true → s.cfg.maxFrameLen = none → s.run = .running → s.rxState = .normal → s.rxBuf = [] →
    s.rxLen = 0 → s.rxOvf = false → s.input = loopback s.cfg p ++ rest →
    ∃ u : State,
      exec (decodeFrame (s.cfg.stx :: p))
        { s with input := rest, txOut := s.txOut ++ [.send (encodeFrame s.cfg p)],
                 results := s.results ++ [.sendOk] } = .next u ∧
      Sys2Proof.core.run (loopback s.cfg p).length s = .next u

/-! ## The transmit encoder -/

/-- `41_tx_encoder.md` R121, one clause per marker, and R122 (handed back, log 7). -/
def Obligations.TxBytesAreStuffedOrLiteral : Prop :=
  ∀ (s : State) (p : Byte),
    exec .txStuffStx s = .next { s with opOut := s.opOut ++ [.bytes [s.cfg.esc, s.cfg.stx ^^^ 0x20#8]] } ∧
    exec .txStuffEtx s = .next { s with opOut := s.opOut ++ [.bytes [s.cfg.esc, s.cfg.etx ^^^ 0x20#8]] } ∧
    exec .txStuffEsc s = .next { s with opOut := s.opOut ++ [.bytes [s.cfg.esc, s.cfg.esc ^^^ 0x20#8]] } ∧
    exec (.txLit p) s = .next { s with opOut := s.opOut ++ [.bytes [p]] }

/-- `41_tx_encoder.md` section 1 (R123): one send of `STX`, each payload byte stuffed or as it is, `ETX` (one
send per command is the spec's decision D27, log 24; the handed-back answer is log 7). -/
def Obligations.TxFrameSendsTheFrame : Prop :=
  ∀ (s : State) (p : List Byte) (o : SinkOutcome),
    exec (.txFrame p o) s = .next { s with
      txOut := s.txOut ++ [.send ([s.cfg.stx] ++
        p.flatMap (fun x =>
          if x = s.cfg.stx ∨ x = s.cfg.etx ∨ x = s.cfg.esc then [s.cfg.esc, x ^^^ 0x20#8] else [x]) ++
        [s.cfg.etx])],
      opOut := s.opOut ++ [.sink o] }

/-- `41_tx_encoder.md` section 3 (R125), the length law. -/
def Obligations.EncodedLength : Prop :=
  ∀ (c : Cfg) (p : List Byte),
    (encodeFrame c p).length = 2 + p.length + p.countP (fun x => decide (x = c.stx ∨ x = c.etx ∨ x = c.esc)) ∧
    (encodeFrame c p).head? = some c.stx ∧ (encodeFrame c p).getLast? = some c.etx

/-- `41_tx_encoder.md` section 3 (R126): under a clean configuration the body holds no `STX`, no `ETX`, and one
`ESC` for each reserved byte. -/
def Obligations.CleanBodyHasNoMarker : Prop :=
  ∀ (c : Cfg) (p : List Byte), c.wf = true → cleanCfg c = true →
    c.stx ∉ txBody c p ∧ c.etx ∉ txBody c p ∧ (txBody c p).count c.esc = markerCount c p

/-- `41_tx_encoder.md` section 3 (R128). -/
def Obligations.EncodingIsInjective : Prop :=
  ∀ (c : Cfg) (p q : List Byte), c.wf = true → encodeFrame c p = encodeFrame c q → p = q

/-! ## The classifier -/

/-- `42_frame_classifier.md` section 2 (FRM.AVG): the pattern as received with the `ts` before the advance, one
event always, `ts` modulo 2^64 (the spec's decisions D10, D12, D24, logs 16, 22). -/
def Obligations.FrmAvgEmitsAndAdvances : Prop :=
  ∀ (s : State) (v : Word32),
    exec (.frmAvg v) s = .next { s with
      ts := s.ts + BitVec.ofNat 64 s.cfg.tSampleUs, evOut := s.evOut ++ [.average v s.ts] }

/-- `42_frame_classifier.md` section 2 (FRM.TICK): `ts` becomes the exact product, whatever it was and whatever
the fifth byte is, and nothing is emitted (the spec's decisions D23, D29, logs 22, 26). -/
def Obligations.FrmTickReplacesTs : Prop :=
  ∀ (s : State) (ticks : Word32) (x : Byte), s.cfg.wf = true →
    ∃ t : State, exec (.frmTick ticks x) s = .next t ∧ t.ts.toNat = ticks.toNat * s.cfg.tTickUs ∧
      t = { s with ts := t.ts }

/-- `42_frame_classifier.md` section 2 (FRM.BURST): if every word's range measures, one `trigger` with every
value in order and the end time; else one `error` with the index of the first word that has range `None` (or
`Invalid`, with its own kind, which no word has under a well-formed `RANGE_MAP`: R169, log 27); nothing else
changes, `ts` included (the spec's decisions D7, D15, D22, D31, logs 14, 22, 23). -/
def Obligations.FrmBurstResult : Prop :=
  ∀ (s : State) (f : List Byte),
    ((∀ w ∈ frameWords f, measures (rangeOf s.cfg w) = true) →
      exec (.frmBurst f) s = .next { s with
        evOut := s.evOut ++ [.trigger ((frameWords f).map (wordValue s))
          (s.ts + BitVec.ofNat 64 (s.cfg.tSampleUs * (f.length / 2)))] }) ∧
    (∀ (before : List Word16) (w : Word16) (later : List Word16),
      frameWords f = before ++ w :: later → (∀ u ∈ before, measures (rangeOf s.cfg u) = true) →
      measures (rangeOf s.cfg w) = false →
      exec (.frmBurst f) s = .next { s with
        evOut := s.evOut ++
          [.error { kind := rangeError (rangeOf s.cfg w), stage := .decode, info := .wordIndex before.length }] })

/-- `42_frame_classifier.md` section 3 (R146): one `average` for length 4, no event for length 5, exactly one
`trigger` or `error` for any other length (the spec's decision D24, log 22). -/
def Obligations.EventsPerFrame : Prop :=
  ∀ (s : State) (f : List Byte),
    ∃ (t : State) (ev : List HostEvent), exec (decodeFrame f) s = .next t ∧ t.evOut = s.evOut ++ ev ∧
      (f.length = 4 → ∃ v τ, ev = [.average v τ]) ∧
      (f.length = 5 → ev = []) ∧
      (f.length ≠ 4 → f.length ≠ 5 → (∃ vs τ, ev = [.trigger vs τ]) ∨ (∃ e, ev = [.error e]))

/-! ## Sample words and the scaler -/

/-- `43_range_scaler.md` R164, and R163 and R165 of the same form: the scaled code; W.NONE (R162): a failure,
whatever the code and the calibration (what it does to its burst is `FrmBurstResult`). Handed back, log 7. -/
def Obligations.SampleWordsGiveTheirResult : Prop :=
  ∀ (s : State) (code : Code),
    exec (.wNone code) s = .next { s with opOut := s.opOut ++ [.word (.fail .rangeNone)] } ∧
    exec (.wLow code) s = .next { s with opOut := s.opOut ++ [.word (.ok (scale s.cfg code s.rLow))] } ∧
    exec (.wMid code) s = .next { s with opOut := s.opOut ++ [.word (.ok (scale s.cfg code s.rMid))] } ∧
    exec (.wHigh code) s = .next { s with opOut := s.opOut ++ [.word (.ok (scale s.cfg code s.rHigh))] }

/-- `43_range_scaler.md` section 3 (R166): the quotient first, then times the code, then times 1,000,000, then
to binary32, in whatever arithmetic the configuration names. -/
def Obligations.ScaleFollowsTheSourceOrder : Prop :=
  ∀ (c : Cfg) (code : Code) (r : Word64),
    scale c code r = (cfgNum c).toF32 ((cfgNum c).mulF ((cfgNum c).mulF ((cfgNum c).ofNatF code.toNat)
      ((cfgNum c).divF c.adcScale r)) (cfgNum c).microF)

/-- `43_range_scaler.md` sections 1 and 5 (R161, R171): the two fields of a word lose nothing and are bits 15:14
and 13:0 (the spec's decision D6, log 14); the value the spec gives `RANGE_MAP` sends 0, 1, 2, 3 to None, Low,
Mid, High (the spec's decision D7, log 14), and no well-formed one sends a field value to `Invalid`. -/
def Obligations.WordFieldsPartitionTheWord : Prop :=
  ∀ w : Word16,
    ((rangeBits w).toNat * 2 ^ 14 + (codeOf w).toNat = w.toNat ∧
      rangeBits w = w.extractLsb' 14 2 ∧ codeOf w = w.extractLsb' 0 14) ∧
    ((w.toNat < 0x4000 → wordRange Config.rangeMapDefault w = .none) ∧
      (0x4000 ≤ w.toNat → w.toNat < 0x8000 → wordRange Config.rangeMapDefault w = .low) ∧
      (0x8000 ≤ w.toNat → w.toNat < 0xC000 → wordRange Config.rangeMapDefault w = .mid) ∧
      (0xC000 ≤ w.toNat → wordRange Config.rangeMapDefault w = .high)) ∧
    (∀ m : RangeMap, m.wf = true → wordRange m w ≠ .invalid)

/-- `93_implementation_defined.md` G5: the quotient is rounded to the nearest natural, a tie to the even one. -/
def Obligations.RoundingIsToNearestEven : Prop :=
  ∀ a b : Nat, 0 < b →
    2 * (rneDiv a b * b) ≤ 2 * a + b ∧ 2 * a ≤ 2 * (rneDiv a b * b) + b ∧
    (2 * (rneDiv a b * b) = 2 * a + b → rneDiv a b % 2 = 0) ∧
    (2 * a = 2 * (rneDiv a b * b) + b → rneDiv a b % 2 = 0)

/-- `93_implementation_defined.md` G5: a value that a finite binary64 pattern has is rounded to that pattern. -/
def Obligations.FiniteValuesRoundToThemselves : Prop :=
  ∀ a : Word64, magBits64 a < infBits64 → round64 (units64 a) (2 ^ quantum64) = magBits64 a

/-- `43_range_scaler.md` section 5 (R171): the conversion of a code to binary64 is exact. -/
def Obligations.CodeConversionIsExact : Prop :=
  ∀ code : Code, units64 (ofNat64 code.toNat) = code.toNat * 2 ^ quantum64 ∧ neg64 (ofNat64 code.toNat) = false

/-- `43_range_scaler.md` section 3 (R167 (b)): code 0 scales to `+0.0` whenever the gain is finite, in the
default arithmetic (D11, log 3). -/
def Obligations.ScaleOfZeroIsZero : Prop :=
  ∀ (c : Cfg) (r : Word64), c.numerics = .ieee → valid64 c.adcScale = true → valid64 r = true →
    magBits64 (div64 c.adcScale r) < infBits64 → scale c 0#14 r = 0#32

/-- `43_range_scaler.md` section 3 (R167 (e)): whenever the gain is finite the result is never negative and
never a NaN, in the default arithmetic (D11, log 3). -/
def Obligations.ScaleIsNeverNegativeNorNan : Prop :=
  ∀ (c : Cfg) (code : Code) (r : Word64), c.numerics = .ieee → valid64 c.adcScale = true → valid64 r = true →
    magBits64 (div64 c.adcScale r) < infBits64 → (scale c code r).toNat ≤ infBits32

/-- `43_range_scaler.md` section 3 (R167 (c)): monotone in the code, in the default arithmetic (D11, log 3). The
patterns of non-negative values order as the values do. -/
def Obligations.ScaleIsMonotoneInTheCode : Prop :=
  ∀ (c : Cfg) (k1 k2 : Code) (r : Word64), c.numerics = .ieee → valid64 c.adcScale = true → valid64 r = true →
    magBits64 (div64 c.adcScale r) < infBits64 → k1.toNat ≤ k2.toNat →
    (scale c k1 r).toNat ≤ (scale c k2 r).toNat

/-- `43_range_scaler.md` section 3 (R167 (d)): antitone in the resistor, in the default arithmetic (D11, log
3), for gains that are finite. -/
def Obligations.ScaleIsAntitoneInTheResistor : Prop :=
  ∀ (c : Cfg) (code : Code) (r1 r2 : Word64), c.numerics = .ieee → valid64 c.adcScale = true →
    valid64 r1 = true → valid64 r2 = true → magBits64 (div64 c.adcScale r1) < infBits64 →
    magBits64 (div64 c.adcScale r2) < infBits64 → r1.toNat ≤ r2.toNat →
    (scale c code r2).toNat ≤ (scale c code r1).toNat

/-! ## The control operations -/

/-- `44_control_ops.md` section 2 (RESET), `10_state.md` section 8: every piece of state to its power-on value,
from any state (the spec's decisions D13, D16, logs 17, 33; the cleared result traces are log 8). -/
def Obligations.ResetRestoresPowerOn : Prop :=
  ∀ s : State, exec .reset s = .next
    { run := .stopped, rxState := .normal, rxBuf := [], rxLen := 0, rxOvf := false, ts := 0#64,
      rLow := (cfgNum s.cfg).ofRatF 18 10, rMid := (cfgNum s.cfg).ofRatF 28 1,
      rHigh := (cfgNum s.cfg).ofRatF 510 1, evOut := [], txOut := [], cfg := s.cfg, input := s.input,
      results := [], opOut := [] }

/-- `10_state.md` section 8: the reset state; 1.8, 28.0 and 510.0 are the binary64 patterns nearest to them, in
the default arithmetic (D11, D16, logs 3, 33). -/
def Obligations.ResetValues : Prop :=
  State.reset.run = .stopped ∧ State.reset.rxState = .normal ∧ State.reset.rxBuf = [] ∧
  State.reset.rxLen = 0 ∧ State.reset.rxOvf = false ∧ State.reset.ts = 0#64 ∧
  State.reset.evOut = [] ∧ State.reset.txOut = [] ∧
  (∀ c : Cfg, c.numerics = .ieee →
    (State.powerOn c).rLow = 0x3FFCCCCCCCCCCCCD#64 ∧ (State.powerOn c).rMid = 0x403C000000000000#64 ∧
    (State.powerOn c).rHigh = 0x407FE00000000000#64)

/-- `44_control_ops.md` section 2 (START): from `Stopped` the transport is opened and the call waits (the
descriptor in the action is log 10). -/
def Obligations.StartOpensTheTransport : Prop :=
  ∀ (s : State) (d : Token), s.run = .stopped →
    exec (.start d) s = .next { s with run := .starting, txOut := s.txOut ++ [.openLink d] }

/-- `60_exceptions.md` R208: a double start is returned synchronously, with no state change. -/
def Obligations.DoubleStartChangesNothing : Prop :=
  ∀ (s : State) (d : Token), s.run ≠ .stopped →
    exec (.start d) s = .next { s with
      results := s.results ++ [.startErr { kind := .doubleStart, stage := .usage, info := .none }] }

/-- `44_control_ops.md` section 2 (OPEN_DONE): the three verdicts in `Starting`, and no change elsewhere (the
spec's decisions D13, D16, D18, logs 17, 18, 33). That the error of `transport_fail` carries the verdict's cause
is the model's choice (log 10; R200 and U8 leave the content open). -/
def Obligations.OpenDoneCompletesTheStart : Prop :=
  ∀ s : State,
    (s.run = .starting →
      (∀ md : Token, exec (.openDone (.ok md)) s = .next { s with
        run := .running, rxState := .normal, rxBuf := [], rxLen := 0, rxOvf := false, ts := 0#64,
        results := s.results ++ [.startOk md] }) ∧
      exec (.openDone .metaFail) s = .next { s with
        run := .stopped, txOut := s.txOut ++ [.close],
        results := s.results ++ [.startErr { kind := .metadata, stage := .metadata, info := .none }] } ∧
      (∀ cause : Option Token, exec (.openDone (.transportFail cause)) s = .next { s with
        run := .stopped,
        results := s.results ++
          [.startErr { kind := .transport, stage := .transport, info := .cause cause }] })) ∧
    (s.run ≠ .starting → ∀ v : Verdict, exec (.openDone v) s = .next s)

/-- `44_control_ops.md` section 2 (STOP): from `Running` the transport is closed and the session discarded, the
calibration kept; elsewhere nothing (the spec's decisions D13, D16, D18, logs 17, 18, 33). -/
def Obligations.StopEndsTheSession : Prop :=
  ∀ s : State,
    (s.run = .running → exec .stop s = .next { s with
      run := .stopped, rxState := .normal, rxBuf := [], rxLen := 0, rxOvf := false, ts := 0#64,
      txOut := s.txOut ++ [.close] }) ∧
    (s.run ≠ .running → exec .stop s = .next s)

/-- `60_exceptions.md` R205 and R206: a send outside `Running`, and an argument that is no byte sequence while
`Running`, are usage errors: nothing is sent, no state changes. -/
def Obligations.SendUsageErrorsChangeNothing : Prop :=
  ∀ (s : State) (o : SinkOutcome),
    (s.run ≠ .running → ∀ cmd : Option (List Byte), exec (.send cmd o) s = .next { s with
      results := s.results ++ [.sendErr { kind := .notRunning, stage := .usage, info := .none }] }) ∧
    (s.run = .running → exec (.send none o) s = .next { s with
      results := s.results ++ [.sendErr { kind := .badCmd, stage := .codec, info := .none }] })

/-- `44_control_ops.md` section 2 (SEND): the frame is sent; a failed sink also ends the session (the spec's
decisions D20, D27, logs 20, 24). That the error carries the sink's cause is the model's choice (log 10; R200
and U8 leave the content open). -/
def Obligations.SendFramesTheCommand : Prop :=
  ∀ (s : State) (p : List Byte), s.run = .running →
    exec (.send (some p) .ok) s = .next { s with
      txOut := s.txOut ++ [.send (encodeFrame s.cfg p)], results := s.results ++ [.sendOk] } ∧
    (∀ cause : Option Token, exec (.send (some p) (.fail cause)) s = .next { s with
      run := .stopped, rxState := .normal, rxBuf := [], rxLen := 0, rxOvf := false, ts := 0#64,
      txOut := s.txOut ++ [.send (encodeFrame s.cfg p), .close],
      results := s.results ++
        [.sendErr { kind := .transport, stage := .transport, info := .cause cause }] })

/-- `44_control_ops.md` section 2 (SETCAL): three values in the host's duty are written at once, in every mode;
any other call is refused (the spec's decisions D13, D14, logs 15, 17). -/
def Obligations.SetcalWritesTheTriple : Prop :=
  ∀ (s : State) (l m h : Word64),
    ((cfgNum s.cfg).validF l = true → (cfgNum s.cfg).validF m = true → (cfgNum s.cfg).validF h = true →
      exec (.setcal l m h) s = .next { s with rLow := l, rMid := m, rHigh := h }) ∧
    ((cfgNum s.cfg).validF l = false ∨ (cfgNum s.cfg).validF m = false ∨ (cfgNum s.cfg).validF h = false →
      exec (.setcal l m h) s = .refused .calibrationOutOfDuty)

/-- `44_control_ops.md` section 2 (TRANSPORT_FAIL): the three modes (the spec's decisions D18, D20, D30, logs 18,
20; the carried cause is log 10). -/
def Obligations.TransportFailEndsTheSession : Prop :=
  ∀ (s : State) (cause : Option Token),
    (s.run = .running → exec (.transportFail cause) s = .next { s with
      run := .stopped, rxState := .normal, rxBuf := [], rxLen := 0, rxOvf := false, ts := 0#64,
      evOut := s.evOut ++ [.error { kind := .transport, stage := .transport, info := .cause cause }],
      txOut := s.txOut ++ [.close] }) ∧
    (s.run = .starting → exec (.transportFail cause) s = .next { s with
      run := .stopped,
      results := s.results ++ [.startErr { kind := .transport, stage := .transport, info := .cause cause }] }) ∧
    (s.run = .stopped → exec (.transportFail cause) s = .next s)

/-! ## The whole machine -/

/-- `10_state.md` section 7, `60_exceptions.md` section 4: every step keeps the invariants of R37 and R215. -/
def Obligations.StepKeepsTheInvariant : Prop :=
  ∀ s t : State, s.Inv → step s = .next t → t.Inv

/-- The invariants hold after power-on reset, under every well-formed configuration, and at the reset state, whose
configuration is the model's choice (log 1). -/
def Obligations.PowerOnMeetsTheInvariant : Prop :=
  (∀ c : Cfg, c.wf = true → (State.powerOn c).Inv) ∧ State.reset.Inv

/-- `93_implementation_defined.md` U13, U5: under the invariants a step answers a next state for every event
the ports can carry and every call in the host's duty (logs 11, 15, 28). -/
def Obligations.StepAnswersUnderTheInvariant : Prop :=
  ∀ s : State, s.Inv → (∀ e rest, s.input = e :: rest → rightWidth e = true ∧ inDuty s.cfg e = true) →
    ∃ t : State, step s = .next t

/-- Every step keeps the canonical form of the frame buffer, from every state (log 11). -/
def Obligations.StepKeepsTheBufferCanonical : Prop :=
  ∀ s t : State, s.rxBuf.wf → step s = .next t → t.rxBuf.wf

/-- `10_state.md` R24: no operation changes a hardwired constant, a reset included. -/
def Obligations.ConfigurationIsHardwired : Prop :=
  ∀ s t : State, step s = .next t → t.cfg = s.cfg

/-- `10_state.md` sections 1 and 3: the calibration registers are written by SETCAL and RESET alone (D13, log
17). -/
def Obligations.CalibrationChangesOnlyBySetcalOrReset : Prop :=
  ∀ (i : Instr) (s t : State), i ≠ .reset → (∀ l m h, i ≠ .setcal l m h) → exec i s = .next t →
    t.rLow = s.rLow ∧ t.rMid = s.rMid ∧ t.rHigh = s.rHigh

/-- `44_control_ops.md` section 1, `60_exceptions.md` section 4: what every operation does to `run` (the spec's
decisions D17 to D20, D30, logs 18 to 20). -/
def Obligations.LifecycleMovesAsTabulated : Prop :=
  ∀ (i : Instr) (s t : State), exec i s = .next t → t.run = lifecycleAfter i s.run

/-- `60_exceptions.md` section 3: events already emitted stay, and a step emits at most one; RESET alone
empties the trace (D31, log 22). -/
def Obligations.AtMostOneEventPerOperation : Prop :=
  ∀ (i : Instr) (s t : State), i ≠ .reset → exec i s = .next t →
    ∃ ev : List HostEvent, ev.length ≤ 1 ∧ t.evOut = s.evOut ++ ev

/-- `60_exceptions.md` section 3: a step that starts outside `Running` emits no event (a RESET empties the
trace; the model's choice for data at the inner ports is log 6). -/
def Obligations.NoEventOutsideRunning : Prop :=
  ∀ s t : State, s.run ≠ .running → step s = .next t →
    t.evOut = s.evOut ∨ (t.evOut = [] ∧ ∃ rest, s.input = .call .reset :: rest)

/-- `10_state.md` R33: no rule reads the output traces: with another history in front, every operation but
RESET does the same and keeps that history, and RESET does the very same. -/
def Obligations.HistoryIsNeverRead : Prop :=
  (∀ (i : Instr) (s : State) (ev : List HostEvent) (tx : List TxAction), i ≠ .reset →
    exec i (withHistory ev tx s) = mapNext (withHistory ev tx) (exec i s)) ∧
  (∀ (s : State) (ev : List HostEvent) (tx : List TxAction),
    exec .reset (withHistory ev tx s) = exec .reset s)

/-- `20_memory.md` section 6 (R58 (e)): a successful send and a received byte commute. -/
def Obligations.SendAndReceiveCommute : Prop :=
  ∀ (s : State) (p : List Byte) (b : Byte), s.run = .running → bufferExact s →
    ∃ u v t : State,
      exec (.send (some p) .ok) s = .next u ∧ exec (.rxbyte b) u = .next t ∧
      exec (.rxbyte b) s = .next v ∧ exec (.send (some p) .ok) v = .next t
end

