-- ==== Sys2Proof/Laws/Operands.lean ====
section
/-! SUPPORT. The laws of operand assembly: un-stuffing is its own inverse, the frame reads are the bytes at
their offsets, the two fields of a word and the bytes that carry it determine each other. -/

namespace Sys2Proof.Machine

/-- `(x ^ 0x20) ^ 0x20 = x` (R79 (a)). -/
@[simp] theorem xorByte_xorByte (b : Byte) : xorByte (xorByte b) = b := by
  simp [xorByte]

/-- Un-stuffing never gives the byte itself. -/
theorem xorByte_ne (b : Byte) : xorByte b ≠ b := by
  revert b; decide

/-- The bytes of a 16-bit value read back little-endian. -/
@[simp] theorem le16_bytesOf16 (w : Word16) : le16 (w.setWidth 8) ((w >>> 8).setWidth 8) = w := by
  apply BitVec.eq_of_toNat_eq
  simp only [le16, BitVec.toNat_append, BitVec.toNat_setWidth, BitVec.toNat_ushiftRight,
    Nat.shiftRight_eq_div_pow]
  rw [← Nat.shiftLeft_add_eq_or_of_lt (by omega)]
  simp only [Nat.shiftLeft_eq]
  omega

/-- The bytes of a 32-bit value read back little-endian. -/
@[simp] theorem le32_bytesOf32 (v : Word32) :
    le32 (v.setWidth 8) ((v >>> 8).setWidth 8) ((v >>> 16).setWidth 8) ((v >>> 24).setWidth 8) = v := by
  apply BitVec.eq_of_getLsbD_eq
  intro i hi
  simp only [le32, BitVec.getLsbD_append, BitVec.getLsbD_setWidth, BitVec.getLsbD_ushiftRight]
  by_cases h1 : i < 8
  · simp [h1, show i < 16 by omega]
  · by_cases h2 : i < 16
    · simp [h1, h2, show i - 8 < 8 by omega, show 8 + (i - 8) = i by omega]
    · by_cases h3 : i < 24
      · simp [h2, show i - 16 < 8 by omega, show 16 + (i - 16) = i by omega]
      · simp [h2, show ¬ i - 16 < 8 by omega, show i - 16 - 8 < 8 by omega,
          show 24 + (i - 16 - 8) = i by omega]

/-- `MemRead(a, 2) = f[a] + 256 × f[a+1]` (R10). -/
theorem le16_toNat (b0 b1 : Byte) : (le16 b0 b1).toNat = b0.toNat + 256 * b1.toNat := by
  simp only [le16, BitVec.toNat_append]
  rw [← Nat.shiftLeft_add_eq_or_of_lt b0.isLt, Nat.shiftLeft_eq]
  omega

/-- A 16-bit value is carried by the two bytes it was read from. -/
theorem bytesOf16_le16 (b0 b1 : Byte) : bytesOf16 (le16 b0 b1) = [b0, b1] := by
  simp only [bytesOf16, List.cons.injEq, and_true]
  refine ⟨?_, ?_⟩ <;>
    (apply BitVec.eq_of_getLsbD_eq; intro i hi
     simp only [le16, BitVec.getLsbD_append, BitVec.getLsbD_setWidth, BitVec.getLsbD_ushiftRight, hi,
       decide_true, Bool.true_and]
     simp)

/-- A 32-bit value is carried by the four bytes it was read from. -/
theorem bytesOf32_le32 (b0 b1 b2 b3 : Byte) : bytesOf32 (le32 b0 b1 b2 b3) = [b0, b1, b2, b3] := by
  simp only [bytesOf32, List.cons.injEq, and_true]
  refine ⟨?_, ?_, ?_, ?_⟩ <;>
    (apply BitVec.eq_of_getLsbD_eq; intro i hi
     simp only [le32, BitVec.getLsbD_append, BitVec.getLsbD_setWidth, BitVec.getLsbD_ushiftRight, hi,
       decide_true, Bool.true_and])
  · simp [hi, show i < 16 by omega]
  · simp [show 8 + i < 16 by omega]
  · simp [show ¬ (16 + i < 16) by omega, hi]
  · simp [show ¬ (24 + i < 16) by omega, show ¬ (24 + i - 16 < 8) by omega, show 24 + i - 16 - 8 = i by omega]

/-- The range field of a word built from its fields. -/
@[simp] theorem rangeBits_joinWord (r : RangeBits) (k : Code) : rangeBits (joinWord r k) = r := by
  apply BitVec.eq_of_getLsbD_eq
  intro i hi
  have h : rangeBits (joinWord r k) = (joinWord r k).extractLsb' 14 2 := by
    apply BitVec.eq_of_getLsbD_eq
    intro j hj
    have : j = 0 ∨ j = 1 := by omega
    rcases this with rfl | rfl <;> simp [rangeBits, Config.rangeMask, Config.rangePos]
  rw [h]
  simp only [joinWord, BitVec.getLsbD_append, BitVec.getLsbD_extractLsb', hi, decide_true, Bool.true_and,
    show ¬ (14 + i < 14) by omega, if_false, show 14 + i - 14 = i by omega]

/-- Under a well-formed `RANGE_MAP` the field value of a range other than `invalid` maps to that range. -/
theorem rangeMap_rangeField {m : RangeMap} {x : MeasurementRange} (h : m.wf = true) (hx : x ≠ .invalid) :
    rangeMap m (rangeField m x) = x := by
  obtain ⟨a, b, c, d⟩ := m
  cases a <;> cases b <;> cases c <;> cases d <;> first
    | exact absurd h (by decide)
    | (cases x <;> first | rfl | exact absurd rfl hx)

/-- Under a well-formed `RANGE_MAP` a field value is the only one its range comes from. -/
theorem rangeField_rangeMap {m : RangeMap} (h : m.wf = true) (r : RangeBits) :
    rangeField m (rangeMap m r) = r := by
  obtain ⟨a, b, c, d⟩ := m
  cases a <;> cases b <;> cases c <;> cases d <;> first
    | exact absurd h (by decide)
    | (revert r; decide)

/-- Under a well-formed `RANGE_MAP` no word has the range `invalid` (R161). -/
theorem wordRange_ne_invalid {m : RangeMap} (h : m.wf = true) (w : Word16) : wordRange m w ≠ .invalid := by
  simp only [RangeMap.wf, List.mem_cons, List.not_mem_nil, or_false, not_or, Bool.and_eq_true,
    decide_eq_true_eq] at h
  unfold wordRange rangeMap
  split_ifs
  · exact fun e => h.2.1 e.symm
  · exact fun e => h.2.2.1 e.symm
  · exact fun e => h.2.2.2.1 e.symm
  · exact fun e => h.2.2.2.2 e.symm

/-- The code of a word built from its fields. -/
@[simp] theorem codeOf_joinWord (r : RangeBits) (k : Code) : codeOf (joinWord r k) = k := by
  apply BitVec.eq_of_getLsbD_eq
  intro i hi
  have h : codeOf (joinWord r k) = (joinWord r k).extractLsb' 0 14 := by
    apply BitVec.eq_of_getLsbD_eq
    intro j hj
    simp only [codeOf, Config.adcMask, BitVec.getLsbD_setWidth, BitVec.getLsbD_and,
      BitVec.getLsbD_extractLsb', hj]
    interval_cases j <;> simp
  rw [h]
  simp only [joinWord, BitVec.getLsbD_append, BitVec.getLsbD_extractLsb', hi, decide_true, Bool.true_and,
    Nat.zero_add, if_true]

/-- A burst has `floor(L / 2)` words (R54). -/
theorem frameWords_length (f : List Byte) : (frameWords f).length = f.length / 2 := by
  match f with
  | [] => rfl
  | [_] => simp [frameWords]
  | _ :: _ :: rest => simp [frameWords, frameWords_length rest]; omega

/-- Word `i` of a burst is read at offset `2 i` (R54). -/
theorem frameWords_getElem? (f : List Byte) (i : Nat) : (frameWords f)[i]? = memRead16 f (2 * i) := by
  match f, i with
  | [], i => simp [frameWords, memRead16]
  | [b], 0 => simp [frameWords, memRead16]
  | [b], i + 1 => simp [frameWords, memRead16]
  | b0 :: b1 :: rest, 0 => simp [frameWords, memRead16]
  | b0 :: b1 :: rest, i + 1 =>
    have h := frameWords_getElem? rest i
    simp only [frameWords, List.getElem?_cons_succ, h, memRead16, Nat.mul_add, Nat.mul_one]

end Sys2Proof.Machine
end

