-- ==== Sys2Proof/Laws/Memory.lean ====
section
/-! SUPPORT. The laws of the frame buffer: read after write, the canonical form, and what the hand-off copies. -/

namespace Sys2Proof.Machine

/-- A read after a write to the same cell gives the byte written. -/
@[simp] theorem Memory.read_write_same (m : Memory) (a : Nat) (v : Byte) :
    (m.write a v).read a = some v := by
  induction m with
  | nil => simp [Memory.write, Memory.read]
  | cons c m ih =>
    obtain ⟨b, w⟩ := c
    simp only [Memory.write]
    split_ifs with h1 h2
    · simp [Memory.read]
    · simp [Memory.read]
    · simp [Memory.read, h2, ih]

/-- A write leaves every other cell alone. -/
theorem Memory.read_write_other (m : Memory) {a a' : Nat} (v : Byte) (h : a' ≠ a) :
    (m.write a v).read a' = m.read a' := by
  induction m with
  | nil => simp [Memory.write, Memory.read, h]
  | cons c m ih =>
    obtain ⟨b, w⟩ := c
    simp only [Memory.write]
    split_ifs with h1 h2
    · simp [Memory.read, h]
    · subst h2; simp [Memory.read, h]
    · simp [Memory.read, ih]

/-- Every offset a write lists was listed before or is the one written. -/
theorem Memory.mem_write_fst {m : Memory} {a x : Nat} {v : Byte}
    (h : x ∈ (m.write a v).map Prod.fst) : x = a ∨ x ∈ m.map Prod.fst := by
  induction m with
  | nil => simpa [Memory.write] using h
  | cons c m ih =>
    obtain ⟨b, w⟩ := c
    simp only [Memory.write] at h
    split_ifs at h with h1 h2
    · simpa using h
    · simp only [List.map_cons, List.mem_cons] at h ⊢
      tauto
    · simp only [List.map_cons, List.mem_cons] at h ⊢
      rcases h with h | h
      · exact .inr (.inl h)
      · rcases ih h with h | h
        · exact .inl h
        · exact .inr (.inr h)

/-- A write keeps the canonical form. -/
theorem Memory.wf_write {m : Memory} (h : m.wf) (a : Nat) (v : Byte) : (m.write a v).wf := by
  induction m with
  | nil => simp [Memory.write, Memory.wf]
  | cons c m ih =>
    obtain ⟨b, w⟩ := c
    simp only [Memory.wf, List.map_cons, List.pairwise_cons] at h
    obtain ⟨hb, hm⟩ := h
    simp only [Memory.write]
    split_ifs with h1 h2
    · simp only [Memory.wf, List.map_cons, List.pairwise_cons, List.mem_cons]
      refine ⟨?_, hb, hm⟩
      rintro x (rfl | hx)
      · exact h1
      · exact h1.trans (hb x hx)
    · subst h2
      simp only [Memory.wf, List.map_cons, List.pairwise_cons]
      exact ⟨hb, hm⟩
    · simp only [Memory.wf, List.map_cons, List.pairwise_cons]
      refine ⟨fun x hx => ?_, ih hm⟩
      rcases Memory.mem_write_fst hx with rfl | hx
      · omega
      · exact hb x hx

/-- The empty buffer is in canonical form. -/
theorem Memory.wf_nil : Memory.wf [] := List.Pairwise.nil

/-- A write above every listed offset appends one cell. -/
theorem Memory.write_above {m : Memory} {a : Nat} (v : Byte)
    (h : ∀ x ∈ m.map Prod.fst, x < a) : m.write a v = m ++ [(a, v)] := by
  induction m with
  | nil => rfl
  | cons c m ih =>
    obtain ⟨b, w⟩ := c
    have hb : b < a := h b (by simp)
    simp only [Memory.write]
    rw [if_neg (by omega), if_neg (by omega), ih fun x hx => h x (by simp [hx])]
    rfl

/-- A read below every listed offset of the first cells finds what the later cells hold. -/
theorem Memory.read_cons_ne {m : Memory} {a b : Nat} {w : Byte} (h : a ≠ b) :
    Memory.read ((b, w) :: m) a = Memory.read m a := by
  simp [Memory.read, h]

/-- A slice that does not reach a cell does not see it. -/
theorem Memory.slice_cons {m : Memory} {b : Nat} {w : Byte} {a n : Nat} (h : b < a) :
    Memory.slice ((b, w) :: m) a n = Memory.slice m a n := by
  induction n generalizing a with
  | zero => rfl
  | succ n ih =>
    simp only [Memory.slice]
    rw [Memory.read_cons_ne (by omega), ih (by omega)]

/-- A buffer that lists exactly `n` cells from `a` on is copied whole. -/
theorem Memory.slice_exact {m : Memory} {a n : Nat} (h : m.map Prod.fst = List.range' a n) :
    m.slice a n = some (m.map Prod.snd) := by
  induction n generalizing m a with
  | zero =>
    cases m with
    | nil => rfl
    | cons c m => simp at h
  | succ n ih =>
    cases m with
    | nil => simp [List.range'_succ] at h
    | cons c m =>
      obtain ⟨b, w⟩ := c
      simp only [List.map_cons, List.range'_succ, List.cons.injEq] at h
      obtain ⟨rfl, h⟩ := h
      simp only [Memory.slice]
      rw [Memory.slice_cons (by omega), ih h]
      simp [Memory.read]

end Sys2Proof.Machine
end

