-- ==== Sys2Proof/Laws/State.lean ====
section
/-! SUPPORT. One lemma per field per update: what each named update of the state writes, and that it leaves
every other field as it was. -/

namespace Sys2Proof.Machine

variable (s : State)


section emit

variable (e : HostEvent)

@[simp] theorem emit_run : (emit e s).run = s.run := rfl
@[simp] theorem emit_rxState : (emit e s).rxState = s.rxState := rfl
@[simp] theorem emit_rxBuf : (emit e s).rxBuf = s.rxBuf := rfl
@[simp] theorem emit_rxLen : (emit e s).rxLen = s.rxLen := rfl
@[simp] theorem emit_rxOvf : (emit e s).rxOvf = s.rxOvf := rfl
@[simp] theorem emit_ts : (emit e s).ts = s.ts := rfl
@[simp] theorem emit_rLow : (emit e s).rLow = s.rLow := rfl
@[simp] theorem emit_rMid : (emit e s).rMid = s.rMid := rfl
@[simp] theorem emit_rHigh : (emit e s).rHigh = s.rHigh := rfl
@[simp] theorem emit_evOut : (emit e s).evOut = s.evOut ++ [e] := rfl
@[simp] theorem emit_txOut : (emit e s).txOut = s.txOut := rfl
@[simp] theorem emit_cfg : (emit e s).cfg = s.cfg := rfl
@[simp] theorem emit_input : (emit e s).input = s.input := rfl
@[simp] theorem emit_results : (emit e s).results = s.results := rfl
@[simp] theorem emit_opOut : (emit e s).opOut = s.opOut := rfl

end emit

section raise

variable (k : ErrKind) (info : Info)

@[simp] theorem raise_run : (raise k info s).run = s.run := rfl
@[simp] theorem raise_rxState : (raise k info s).rxState = s.rxState := rfl
@[simp] theorem raise_rxBuf : (raise k info s).rxBuf = s.rxBuf := rfl
@[simp] theorem raise_rxLen : (raise k info s).rxLen = s.rxLen := rfl
@[simp] theorem raise_rxOvf : (raise k info s).rxOvf = s.rxOvf := rfl
@[simp] theorem raise_ts : (raise k info s).ts = s.ts := rfl
@[simp] theorem raise_rLow : (raise k info s).rLow = s.rLow := rfl
@[simp] theorem raise_rMid : (raise k info s).rMid = s.rMid := rfl
@[simp] theorem raise_rHigh : (raise k info s).rHigh = s.rHigh := rfl
@[simp] theorem raise_evOut : (raise k info s).evOut = s.evOut ++ [.error (mkErr k info)] := rfl
@[simp] theorem raise_txOut : (raise k info s).txOut = s.txOut := rfl
@[simp] theorem raise_cfg : (raise k info s).cfg = s.cfg := rfl
@[simp] theorem raise_input : (raise k info s).input = s.input := rfl
@[simp] theorem raise_results : (raise k info s).results = s.results := rfl
@[simp] theorem raise_opOut : (raise k info s).opOut = s.opOut := rfl

end raise

section giveResult

variable (r : CallResult)

@[simp] theorem giveResult_run : (giveResult r s).run = s.run := rfl
@[simp] theorem giveResult_rxState : (giveResult r s).rxState = s.rxState := rfl
@[simp] theorem giveResult_rxBuf : (giveResult r s).rxBuf = s.rxBuf := rfl
@[simp] theorem giveResult_rxLen : (giveResult r s).rxLen = s.rxLen := rfl
@[simp] theorem giveResult_rxOvf : (giveResult r s).rxOvf = s.rxOvf := rfl
@[simp] theorem giveResult_ts : (giveResult r s).ts = s.ts := rfl
@[simp] theorem giveResult_rLow : (giveResult r s).rLow = s.rLow := rfl
@[simp] theorem giveResult_rMid : (giveResult r s).rMid = s.rMid := rfl
@[simp] theorem giveResult_rHigh : (giveResult r s).rHigh = s.rHigh := rfl
@[simp] theorem giveResult_evOut : (giveResult r s).evOut = s.evOut := rfl
@[simp] theorem giveResult_txOut : (giveResult r s).txOut = s.txOut := rfl
@[simp] theorem giveResult_cfg : (giveResult r s).cfg = s.cfg := rfl
@[simp] theorem giveResult_input : (giveResult r s).input = s.input := rfl
@[simp] theorem giveResult_results : (giveResult r s).results = s.results ++ [r] := rfl
@[simp] theorem giveResult_opOut : (giveResult r s).opOut = s.opOut := rfl

end giveResult

section handBack

variable (r : OpResult)

@[simp] theorem handBack_run : (handBack r s).run = s.run := rfl
@[simp] theorem handBack_rxState : (handBack r s).rxState = s.rxState := rfl
@[simp] theorem handBack_rxBuf : (handBack r s).rxBuf = s.rxBuf := rfl
@[simp] theorem handBack_rxLen : (handBack r s).rxLen = s.rxLen := rfl
@[simp] theorem handBack_rxOvf : (handBack r s).rxOvf = s.rxOvf := rfl
@[simp] theorem handBack_ts : (handBack r s).ts = s.ts := rfl
@[simp] theorem handBack_rLow : (handBack r s).rLow = s.rLow := rfl
@[simp] theorem handBack_rMid : (handBack r s).rMid = s.rMid := rfl
@[simp] theorem handBack_rHigh : (handBack r s).rHigh = s.rHigh := rfl
@[simp] theorem handBack_evOut : (handBack r s).evOut = s.evOut := rfl
@[simp] theorem handBack_txOut : (handBack r s).txOut = s.txOut := rfl
@[simp] theorem handBack_cfg : (handBack r s).cfg = s.cfg := rfl
@[simp] theorem handBack_input : (handBack r s).input = s.input := rfl
@[simp] theorem handBack_results : (handBack r s).results = s.results := rfl
@[simp] theorem handBack_opOut : (handBack r s).opOut = s.opOut ++ [r] := rfl

end handBack

section transmit

variable (a : TxAction)

@[simp] theorem transmit_run : (transmit a s).run = s.run := rfl
@[simp] theorem transmit_rxState : (transmit a s).rxState = s.rxState := rfl
@[simp] theorem transmit_rxBuf : (transmit a s).rxBuf = s.rxBuf := rfl
@[simp] theorem transmit_rxLen : (transmit a s).rxLen = s.rxLen := rfl
@[simp] theorem transmit_rxOvf : (transmit a s).rxOvf = s.rxOvf := rfl
@[simp] theorem transmit_ts : (transmit a s).ts = s.ts := rfl
@[simp] theorem transmit_rLow : (transmit a s).rLow = s.rLow := rfl
@[simp] theorem transmit_rMid : (transmit a s).rMid = s.rMid := rfl
@[simp] theorem transmit_rHigh : (transmit a s).rHigh = s.rHigh := rfl
@[simp] theorem transmit_evOut : (transmit a s).evOut = s.evOut := rfl
@[simp] theorem transmit_txOut : (transmit a s).txOut = s.txOut ++ [a] := rfl
@[simp] theorem transmit_cfg : (transmit a s).cfg = s.cfg := rfl
@[simp] theorem transmit_input : (transmit a s).input = s.input := rfl
@[simp] theorem transmit_results : (transmit a s).results = s.results := rfl
@[simp] theorem transmit_opOut : (transmit a s).opOut = s.opOut := rfl

end transmit

section clearFrame

@[simp] theorem clearFrame_run : (clearFrame s).run = s.run := rfl
@[simp] theorem clearFrame_rxState : (clearFrame s).rxState = .normal := rfl
@[simp] theorem clearFrame_rxBuf : (clearFrame s).rxBuf = [] := rfl
@[simp] theorem clearFrame_rxLen : (clearFrame s).rxLen = 0 := rfl
@[simp] theorem clearFrame_rxOvf : (clearFrame s).rxOvf = false := rfl
@[simp] theorem clearFrame_ts : (clearFrame s).ts = s.ts := rfl
@[simp] theorem clearFrame_rLow : (clearFrame s).rLow = s.rLow := rfl
@[simp] theorem clearFrame_rMid : (clearFrame s).rMid = s.rMid := rfl
@[simp] theorem clearFrame_rHigh : (clearFrame s).rHigh = s.rHigh := rfl
@[simp] theorem clearFrame_evOut : (clearFrame s).evOut = s.evOut := rfl
@[simp] theorem clearFrame_txOut : (clearFrame s).txOut = s.txOut := rfl
@[simp] theorem clearFrame_cfg : (clearFrame s).cfg = s.cfg := rfl
@[simp] theorem clearFrame_input : (clearFrame s).input = s.input := rfl
@[simp] theorem clearFrame_results : (clearFrame s).results = s.results := rfl
@[simp] theorem clearFrame_opOut : (clearFrame s).opOut = s.opOut := rfl

end clearFrame

section sessionClear

@[simp] theorem sessionClear_run : (sessionClear s).run = s.run := rfl
@[simp] theorem sessionClear_rxState : (sessionClear s).rxState = .normal := rfl
@[simp] theorem sessionClear_rxBuf : (sessionClear s).rxBuf = [] := rfl
@[simp] theorem sessionClear_rxLen : (sessionClear s).rxLen = 0 := rfl
@[simp] theorem sessionClear_rxOvf : (sessionClear s).rxOvf = false := rfl
@[simp] theorem sessionClear_ts : (sessionClear s).ts = 0#64 := rfl
@[simp] theorem sessionClear_rLow : (sessionClear s).rLow = s.rLow := rfl
@[simp] theorem sessionClear_rMid : (sessionClear s).rMid = s.rMid := rfl
@[simp] theorem sessionClear_rHigh : (sessionClear s).rHigh = s.rHigh := rfl
@[simp] theorem sessionClear_evOut : (sessionClear s).evOut = s.evOut := rfl
@[simp] theorem sessionClear_txOut : (sessionClear s).txOut = s.txOut := rfl
@[simp] theorem sessionClear_cfg : (sessionClear s).cfg = s.cfg := rfl
@[simp] theorem sessionClear_input : (sessionClear s).input = s.input := rfl
@[simp] theorem sessionClear_results : (sessionClear s).results = s.results := rfl
@[simp] theorem sessionClear_opOut : (sessionClear s).opOut = s.opOut := rfl

end sessionClear

section endSession

@[simp] theorem endSession_run : (endSession s).run = .stopped := rfl
@[simp] theorem endSession_rxState : (endSession s).rxState = .normal := rfl
@[simp] theorem endSession_rxBuf : (endSession s).rxBuf = [] := rfl
@[simp] theorem endSession_rxLen : (endSession s).rxLen = 0 := rfl
@[simp] theorem endSession_rxOvf : (endSession s).rxOvf = false := rfl
@[simp] theorem endSession_ts : (endSession s).ts = 0#64 := rfl
@[simp] theorem endSession_rLow : (endSession s).rLow = s.rLow := rfl
@[simp] theorem endSession_rMid : (endSession s).rMid = s.rMid := rfl
@[simp] theorem endSession_rHigh : (endSession s).rHigh = s.rHigh := rfl
@[simp] theorem endSession_evOut : (endSession s).evOut = s.evOut := rfl
@[simp] theorem endSession_txOut : (endSession s).txOut = s.txOut ++ [.close] := rfl
@[simp] theorem endSession_cfg : (endSession s).cfg = s.cfg := rfl
@[simp] theorem endSession_input : (endSession s).input = s.input := rfl
@[simp] theorem endSession_results : (endSession s).results = s.results := rfl
@[simp] theorem endSession_opOut : (endSession s).opOut = s.opOut := rfl

end endSession

section failOpen

variable (c : Option Token)

@[simp] theorem failOpen_run : (failOpen c s).run = .stopped := rfl
@[simp] theorem failOpen_rxState : (failOpen c s).rxState = s.rxState := rfl
@[simp] theorem failOpen_rxBuf : (failOpen c s).rxBuf = s.rxBuf := rfl
@[simp] theorem failOpen_rxLen : (failOpen c s).rxLen = s.rxLen := rfl
@[simp] theorem failOpen_rxOvf : (failOpen c s).rxOvf = s.rxOvf := rfl
@[simp] theorem failOpen_ts : (failOpen c s).ts = s.ts := rfl
@[simp] theorem failOpen_rLow : (failOpen c s).rLow = s.rLow := rfl
@[simp] theorem failOpen_rMid : (failOpen c s).rMid = s.rMid := rfl
@[simp] theorem failOpen_rHigh : (failOpen c s).rHigh = s.rHigh := rfl
@[simp] theorem failOpen_evOut : (failOpen c s).evOut = s.evOut := rfl
@[simp] theorem failOpen_txOut : (failOpen c s).txOut = s.txOut := rfl
@[simp] theorem failOpen_cfg : (failOpen c s).cfg = s.cfg := rfl
@[simp] theorem failOpen_input : (failOpen c s).input = s.input := rfl
@[simp] theorem failOpen_results : (failOpen c s).results = s.results ++ [.startErr (mkErr .transport (.cause c))] := rfl
@[simp] theorem failOpen_opOut : (failOpen c s).opOut = s.opOut := rfl

end failOpen

section frmAvg

variable (v : Word32)

@[simp] theorem frmAvg_run : (frmAvg v s).run = s.run := rfl
@[simp] theorem frmAvg_rxState : (frmAvg v s).rxState = s.rxState := rfl
@[simp] theorem frmAvg_rxBuf : (frmAvg v s).rxBuf = s.rxBuf := rfl
@[simp] theorem frmAvg_rxLen : (frmAvg v s).rxLen = s.rxLen := rfl
@[simp] theorem frmAvg_rxOvf : (frmAvg v s).rxOvf = s.rxOvf := rfl
@[simp] theorem frmAvg_ts : (frmAvg v s).ts = tsPlus s.ts s.cfg.tSampleUs := rfl
@[simp] theorem frmAvg_rLow : (frmAvg v s).rLow = s.rLow := rfl
@[simp] theorem frmAvg_rMid : (frmAvg v s).rMid = s.rMid := rfl
@[simp] theorem frmAvg_rHigh : (frmAvg v s).rHigh = s.rHigh := rfl
@[simp] theorem frmAvg_evOut : (frmAvg v s).evOut = s.evOut ++ [.average v s.ts] := rfl
@[simp] theorem frmAvg_txOut : (frmAvg v s).txOut = s.txOut := rfl
@[simp] theorem frmAvg_cfg : (frmAvg v s).cfg = s.cfg := rfl
@[simp] theorem frmAvg_input : (frmAvg v s).input = s.input := rfl
@[simp] theorem frmAvg_results : (frmAvg v s).results = s.results := rfl
@[simp] theorem frmAvg_opOut : (frmAvg v s).opOut = s.opOut := rfl

end frmAvg

section frmTick

variable (k : Word32)

@[simp] theorem frmTick_run : (frmTick k s).run = s.run := rfl
@[simp] theorem frmTick_rxState : (frmTick k s).rxState = s.rxState := rfl
@[simp] theorem frmTick_rxBuf : (frmTick k s).rxBuf = s.rxBuf := rfl
@[simp] theorem frmTick_rxLen : (frmTick k s).rxLen = s.rxLen := rfl
@[simp] theorem frmTick_rxOvf : (frmTick k s).rxOvf = s.rxOvf := rfl
@[simp] theorem frmTick_ts : (frmTick k s).ts = BitVec.ofNat 64 (k.toNat * s.cfg.tTickUs) := rfl
@[simp] theorem frmTick_rLow : (frmTick k s).rLow = s.rLow := rfl
@[simp] theorem frmTick_rMid : (frmTick k s).rMid = s.rMid := rfl
@[simp] theorem frmTick_rHigh : (frmTick k s).rHigh = s.rHigh := rfl
@[simp] theorem frmTick_evOut : (frmTick k s).evOut = s.evOut := rfl
@[simp] theorem frmTick_txOut : (frmTick k s).txOut = s.txOut := rfl
@[simp] theorem frmTick_cfg : (frmTick k s).cfg = s.cfg := rfl
@[simp] theorem frmTick_input : (frmTick k s).input = s.input := rfl
@[simp] theorem frmTick_results : (frmTick k s).results = s.results := rfl
@[simp] theorem frmTick_opOut : (frmTick k s).opOut = s.opOut := rfl

end frmTick

section txFrame

variable (p : List Byte)

@[simp] theorem txFrame_run : (txFrame p s).run = s.run := rfl
@[simp] theorem txFrame_rxState : (txFrame p s).rxState = s.rxState := rfl
@[simp] theorem txFrame_rxBuf : (txFrame p s).rxBuf = s.rxBuf := rfl
@[simp] theorem txFrame_rxLen : (txFrame p s).rxLen = s.rxLen := rfl
@[simp] theorem txFrame_rxOvf : (txFrame p s).rxOvf = s.rxOvf := rfl
@[simp] theorem txFrame_ts : (txFrame p s).ts = s.ts := rfl
@[simp] theorem txFrame_rLow : (txFrame p s).rLow = s.rLow := rfl
@[simp] theorem txFrame_rMid : (txFrame p s).rMid = s.rMid := rfl
@[simp] theorem txFrame_rHigh : (txFrame p s).rHigh = s.rHigh := rfl
@[simp] theorem txFrame_evOut : (txFrame p s).evOut = s.evOut := rfl
@[simp] theorem txFrame_txOut : (txFrame p s).txOut = s.txOut ++ [.send (encodeFrame s.cfg p)] := rfl
@[simp] theorem txFrame_cfg : (txFrame p s).cfg = s.cfg := rfl
@[simp] theorem txFrame_input : (txFrame p s).input = s.input := rfl
@[simp] theorem txFrame_results : (txFrame p s).results = s.results := rfl
@[simp] theorem txFrame_opOut : (txFrame p s).opOut = s.opOut := rfl

end txFrame

end Sys2Proof.Machine
end

