-- ==== Sys2Proof/Laws/Ops.lean ====
section
/-! SUPPORT. For each shared operation, once, everything it can do. -/

namespace Sys2Proof.Machine

/-! ## append (R51) -/

/-- Below the bound an append stores one byte at `rx_len`. -/
theorem append_of_room {v : Byte} {s : State} (h : hasRoom s.cfg s.rxLen = true) :
    append v s = { s with rxBuf := s.rxBuf.write s.rxLen v, rxLen := s.rxLen + 1 } := by
  simp [append, h]

/-- The first append at the bound drops the byte, reports E_OVERFLOW and sets the flag. -/
theorem append_of_full_first {v : Byte} {s : State} (h : hasRoom s.cfg s.rxLen = false)
    (ho : s.rxOvf = false) : append v s = { raise .overflow .none s with rxOvf := true } := by
  simp [append, h, ho, reportsOverflow, ovfAfterAppend]

/-- A later append at the bound drops the byte and changes nothing. -/
theorem append_of_full_again {v : Byte} {s : State} (h : hasRoom s.cfg s.rxLen = false)
    (ho : s.rxOvf = true) : append v s = s := by
  cases s
  simp_all [append, reportsOverflow, ovfAfterAppend]

/-- What an append can do. -/
theorem append_cases (v : Byte) (s : State) :
    (hasRoom s.cfg s.rxLen = true ∧
      append v s = { s with rxBuf := s.rxBuf.write s.rxLen v, rxLen := s.rxLen + 1 }) ∨
    (hasRoom s.cfg s.rxLen = false ∧ s.rxOvf = false ∧
      append v s = { raise .overflow .none s with rxOvf := true }) ∨
    (hasRoom s.cfg s.rxLen = false ∧ s.rxOvf = true ∧ append v s = s) := by
  cases h : hasRoom s.cfg s.rxLen with
  | true => exact .inl ⟨rfl, append_of_room h⟩
  | false =>
    cases ho : s.rxOvf with
    | false => exact .inr (.inl ⟨rfl, rfl, append_of_full_first h ho⟩)
    | true => exact .inr (.inr ⟨rfl, rfl, append_of_full_again h ho⟩)

/-- An append writes nothing but the buffer, its index, the flag and the event trace. -/
theorem append_writes (v : Byte) (s : State) :
    ∃ m n o ev, append v s = { s with rxBuf := m, rxLen := n, rxOvf := o, evOut := s.evOut ++ ev } := by
  rcases append_cases v s with ⟨-, h⟩ | ⟨-, -, h⟩ | ⟨-, -, h⟩
  · exact ⟨s.rxBuf.write s.rxLen v, s.rxLen + 1, s.rxOvf, [], by rw [h]; simp⟩
  · exact ⟨s.rxBuf, s.rxLen, _, _, by rw [h]; rfl⟩
  · exact ⟨s.rxBuf, s.rxLen, s.rxOvf, [], by rw [h]; simp⟩

section append_frame
variable (v : Byte) (s : State)

@[simp] theorem append_run : (append v s).run = s.run := by
  obtain ⟨_, _, _, _, h⟩ := append_writes v s; rw [h]
@[simp] theorem append_rxState : (append v s).rxState = s.rxState := by
  obtain ⟨_, _, _, _, h⟩ := append_writes v s; rw [h]
@[simp] theorem append_ts : (append v s).ts = s.ts := by
  obtain ⟨_, _, _, _, h⟩ := append_writes v s; rw [h]
@[simp] theorem append_rLow : (append v s).rLow = s.rLow := by
  obtain ⟨_, _, _, _, h⟩ := append_writes v s; rw [h]
@[simp] theorem append_rMid : (append v s).rMid = s.rMid := by
  obtain ⟨_, _, _, _, h⟩ := append_writes v s; rw [h]
@[simp] theorem append_rHigh : (append v s).rHigh = s.rHigh := by
  obtain ⟨_, _, _, _, h⟩ := append_writes v s; rw [h]
@[simp] theorem append_txOut : (append v s).txOut = s.txOut := by
  obtain ⟨_, _, _, _, h⟩ := append_writes v s; rw [h]
@[simp] theorem append_cfg : (append v s).cfg = s.cfg := by
  obtain ⟨_, _, _, _, h⟩ := append_writes v s; rw [h]
@[simp] theorem append_input : (append v s).input = s.input := by
  obtain ⟨_, _, _, _, h⟩ := append_writes v s; rw [h]
@[simp] theorem append_results : (append v s).results = s.results := by
  obtain ⟨_, _, _, _, h⟩ := append_writes v s; rw [h]
@[simp] theorem append_opOut : (append v s).opOut = s.opOut := by
  obtain ⟨_, _, _, _, h⟩ := append_writes v s; rw [h]

end append_frame

/-- An append keeps the buffer exact. -/
theorem append_bufferExact {v : Byte} {s : State} (h : bufferExact s) : bufferExact (append v s) := by
  rcases append_cases v s with ⟨-, e⟩ | ⟨-, -, e⟩ | ⟨-, -, e⟩
  · have hlt : ∀ x ∈ s.rxBuf.map Prod.fst, x < s.rxLen := by
      intro x hx
      rw [h] at hx
      exact List.mem_range.mp hx
    simp only [bufferExact, e, Memory.write_above v hlt, List.map_append, h, List.map_cons, List.map_nil,
      List.range_succ]
  · simpa only [bufferExact, e, raise_rxBuf, raise_rxLen] using h
  · rwa [e]

/-- An append keeps the canonical form of the buffer. -/
theorem append_wf {v : Byte} {s : State} (h : s.rxBuf.wf) : (append v s).rxBuf.wf := by
  rcases append_cases v s with ⟨-, e⟩ | ⟨-, -, e⟩ | ⟨-, -, e⟩
  · rw [e]; exact Memory.wf_write h _ _
  · rw [e]; exact h
  · rwa [e]

/-! ## The hand-off (R52) -/

/-- An exact buffer is handed over whole, in order. -/
theorem takeFrame_exact {s : State} (h : bufferExact s) :
    takeFrame s = some (s.rxBuf.map Prod.snd) :=
  Memory.slice_exact (by rw [h, List.range_eq_range'])

/-- An exact buffer is in canonical form. -/
theorem wf_of_bufferExact {s : State} (h : bufferExact s) : s.rxBuf.wf := by
  rw [Memory.wf, h]
  exact List.pairwise_lt_range

/-! ## The classifier (R140) -/

/-- A burst emits one event and does nothing else. -/
theorem frmBurst_emits (f : List Byte) (s : State) : ∃ e, frmBurst f s = emit e s := by
  unfold frmBurst
  split
  · exact ⟨_, rfl⟩
  · exact ⟨_, rfl⟩

/-- What a classification can do: one of the three frame operations, by the length. -/
theorem classify_cases (f : List Byte) (s : State) :
    (∃ v, f.length = 4 ∧ classify f s = frmAvg v s) ∨
    (∃ k, f.length = 5 ∧ classify f s = frmTick k s) ∨
    (f.length ≠ 4 ∧ f.length ≠ 5 ∧ classify f s = frmBurst f s) := by
  unfold classify
  split
  · exact .inl ⟨_, rfl, rfl⟩
  · exact .inr (.inl ⟨_, rfl, rfl⟩)
  · rename_i h4 h5
    refine .inr (.inr ⟨fun h => ?_, fun h => ?_, rfl⟩)
    · match f, h with
      | [b0, b1, b2, b3], _ => exact h4 _ _ _ _ rfl
    · match f, h with
      | [b0, b1, b2, b3, x], _ => exact h5 _ _ _ _ _ rfl

/-- A classification writes nothing but `ts` and the event trace, and emits at most one event (R140). -/
theorem classify_writes (f : List Byte) (s : State) :
    ∃ t ev, ev.length ≤ 1 ∧ classify f s = { s with ts := t, evOut := s.evOut ++ ev } := by
  rcases classify_cases f s with ⟨v, -, e⟩ | ⟨k, -, e⟩ | ⟨-, -, e⟩
  · exact ⟨_, [_], by simp, e⟩
  · exact ⟨(frmTick k s).ts, [], by simp, by rw [e]; simp [frmTick]⟩
  · obtain ⟨ev, e'⟩ := frmBurst_emits f s
    exact ⟨s.ts, [ev], by simp, e.trans e'⟩

section classify_frame
variable (f : List Byte) (s : State)

@[simp] theorem classify_run : (classify f s).run = s.run := by
  obtain ⟨_, _, _, h⟩ := classify_writes f s; rw [h]
@[simp] theorem classify_rxState : (classify f s).rxState = s.rxState := by
  obtain ⟨_, _, _, h⟩ := classify_writes f s; rw [h]
@[simp] theorem classify_rxBuf : (classify f s).rxBuf = s.rxBuf := by
  obtain ⟨_, _, _, h⟩ := classify_writes f s; rw [h]
@[simp] theorem classify_rxLen : (classify f s).rxLen = s.rxLen := by
  obtain ⟨_, _, _, h⟩ := classify_writes f s; rw [h]
@[simp] theorem classify_rxOvf : (classify f s).rxOvf = s.rxOvf := by
  obtain ⟨_, _, _, h⟩ := classify_writes f s; rw [h]
@[simp] theorem classify_rLow : (classify f s).rLow = s.rLow := by
  obtain ⟨_, _, _, h⟩ := classify_writes f s; rw [h]
@[simp] theorem classify_rMid : (classify f s).rMid = s.rMid := by
  obtain ⟨_, _, _, h⟩ := classify_writes f s; rw [h]
@[simp] theorem classify_rHigh : (classify f s).rHigh = s.rHigh := by
  obtain ⟨_, _, _, h⟩ := classify_writes f s; rw [h]
@[simp] theorem classify_txOut : (classify f s).txOut = s.txOut := by
  obtain ⟨_, _, _, h⟩ := classify_writes f s; rw [h]
@[simp] theorem classify_cfg : (classify f s).cfg = s.cfg := by
  obtain ⟨_, _, _, h⟩ := classify_writes f s; rw [h]
@[simp] theorem classify_input : (classify f s).input = s.input := by
  obtain ⟨_, _, _, h⟩ := classify_writes f s; rw [h]
@[simp] theorem classify_results : (classify f s).results = s.results := by
  obtain ⟨_, _, _, h⟩ := classify_writes f s; rw [h]
@[simp] theorem classify_opOut : (classify f s).opOut = s.opOut := by
  obtain ⟨_, _, _, h⟩ := classify_writes f s; rw [h]

end classify_frame

/-! ## The step (R12) -/

/-- What a step can do. -/
theorem step_cases (s : State) :
    (s.input = [] ∧ step s = .next s) ∨
    (∃ e rest, s.input = e :: rest ∧
      ((∃ i, decode s.ctx e = .op i ∧ step s = exec i { s with input := rest }) ∨
       (decode s.ctx e = .notSelected ∧ step s = .next { s with input := rest }) ∨
       (decode s.ctx e = .datumWidth ∧ step s = .refused .datumWidth))) := by
  cases h : s.input with
  | nil => exact .inl ⟨rfl, by simp [step, takeEvent, h]⟩
  | cons e rest =>
    refine .inr ⟨e, rest, rfl, ?_⟩
    cases hd : decode s.ctx e with
    | op i => exact .inl ⟨i, rfl, by simp [step, takeEvent, h, hd]⟩
    | notSelected => exact .inr (.inl ⟨rfl, by simp [step, takeEvent, h, hd]⟩)
    | datumWidth => exact .inr (.inr ⟨rfl, by simp [step, takeEvent, h, hd]⟩)

end Sys2Proof.Machine
end

