-- ==== Sys2Proof/Laws/Exec.lean ====
section
/-! SUPPORT. What the meanings with several cases can do, and how a run of received bytes unfolds. -/

namespace Sys2Proof.Machine

/-- The frame operation a frame decodes to is what the classifier runs. -/
theorem exec_decodeFrame (f : List Byte) (s : State) : exec (decodeFrame f) s = .next (classify f s) :=
  match f with
  | [] | [_] | [_, _] | [_, _, _] | [_, _, _, _] | [_, _, _, _, _] | _ :: _ :: _ :: _ :: _ :: _ :: _ => rfl

/-- If RX.ETX answers a next state, the frame was discarded for overflow, or classified and cleared. -/
theorem execRxEtx_cases {s t : State} (h : execRxEtx s = .next t) :
    (s.rxOvf = true ∧ t = clearFrame s) ∨
    (s.rxOvf = false ∧ ∃ f, takeFrame s = some f ∧ t = clearFrame (classify f s)) := by
  unfold execRxEtx at h
  cases ho : s.rxOvf with
  | true =>
    rw [ho, if_pos rfl] at h
    cases h
    exact .inl ⟨rfl, rfl⟩
  | false =>
    rw [ho, if_neg (by simp)] at h
    split at h
    · cases h
      exact .inr ⟨rfl, _, by assumption, rfl⟩
    · cases h

/-- If RXBYTE answers a next state, it dropped the byte, or one of the four operations answered it. -/
theorem execRxbyte_cases {b : Byte} {s t : State} (h : execRxbyte b s = .next t) :
    (s.run ≠ .running ∧ t = s) ∨
    (s.run = .running ∧
      (execRxEsc s = .next t ∨ execRxEtx s = .next t ∨ execRxData b s = .next t ∨
        execRxUnesc b s = .next t)) := by
  unfold execRxbyte at h
  split at h
  · rename_i hr
    refine .inr ⟨hr, ?_⟩
    split at h
    · split_ifs at h
      · exact .inl h
      · exact .inr (.inl h)
      · exact .inr (.inr (.inl h))
    · exact .inr (.inr (.inr h))
  · rename_i hr
    cases h
    exact .inl ⟨by simp [hr], rfl⟩
  · rename_i hr
    cases h
    exact .inl ⟨by simp [hr], rfl⟩

/-- SEND answers a usage error, a sent frame, or a sent frame and the end of the session. -/
theorem execSend_cases (cmd : Option (List Byte)) (o : SinkOutcome) (s : State) :
    (s.run ≠ .running ∧ execSend cmd o s = .next (giveResult (.sendErr (mkErr .notRunning .none)) s)) ∨
    (s.run = .running ∧ cmd = none ∧
      execSend cmd o s = .next (giveResult (.sendErr (mkErr .badCmd .none)) s)) ∨
    (∃ p, s.run = .running ∧ cmd = some p ∧ o = .ok ∧
      execSend cmd o s = .next (giveResult .sendOk (txFrame p s))) ∨
    (∃ p c, s.run = .running ∧ cmd = some p ∧ o = .fail c ∧
      execSend cmd o s
        = .next (giveResult (.sendErr (mkErr .transport (.cause c))) (endSession (txFrame p s)))) := by
  cases hr : s.run with
  | stopped => exact .inl ⟨by simp, by simp [execSend, hr]⟩
  | starting => exact .inl ⟨by simp, by simp [execSend, hr]⟩
  | running =>
    cases cmd with
    | none => exact .inr (.inl ⟨rfl, rfl, by simp [execSend, hr]⟩)
    | some p =>
      cases o with
      | ok => exact .inr (.inr (.inl ⟨p, rfl, rfl, rfl, by simp [execSend, hr]⟩))
      | fail c => exact .inr (.inr (.inr ⟨p, c, rfl, rfl, rfl, by simp [execSend, hr]⟩))

/-- A step that takes a received byte. -/
theorem step_rxbyte {s : State} {b : Byte} {rest : List Event} (h : s.input = .call (.rxbyte b) :: rest) :
    step s = exec (.rxbyte b) { s with input := rest } := by
  simp [step, takeEvent, h, decode, decodeCall]

/-- A run whose first step answers `t` goes on from `t`. -/
theorem core_run_succ {s t : State} (n : Nat) (h : step s = .next t) :
    Sys2Proof.core.run (n + 1) s = Sys2Proof.core.run n t := by
  have h' : Sys2Proof.core.step s = .next t := h
  simp only [Host.Core.run, h']

/-- The cells of an exact buffer, appended to: the bytes received and one more. -/
theorem append_bytes {s : State} {b : Byte} (h : bufferExact s) (hr : hasRoom s.cfg s.rxLen = true) :
    (append b s).rxBuf.map Prod.snd = s.rxBuf.map Prod.snd ++ [b] := by
  have hlt : ∀ x ∈ s.rxBuf.map Prod.fst, x < s.rxLen := by
    intro x hx
    rw [h] at hx
    exact List.mem_range.mp hx
  rw [append_of_room hr]
  simp [Memory.write_above b hlt]

/-- The cells listed from an offset on are determined by their bytes. -/
theorem cells_of_range {m : Memory} {n a : Nat} (h : m.map Prod.fst = List.range' a n) :
    m = (List.range' a n).zip (m.map Prod.snd) := by
  rw [← h]
  induction m generalizing a n with
  | nil => rfl
  | cons c m ih =>
    cases n with
    | zero => simp at h
    | succ n =>
      simp only [List.map_cons, List.range'_succ, List.cons.injEq] at h
      simpa using ih h.2

/-- An exact buffer is the buffer of its bytes. -/
theorem bufferOf_exact {s : State} (h : bufferExact s) : bufferOf (s.rxBuf.map Prod.snd) = s.rxBuf := by
  have hl : s.rxBuf.length = s.rxLen := by simpa using congrArg List.length h
  unfold bufferOf
  rw [List.length_map, hl, List.range_eq_range']
  exact (cells_of_range (by rw [h, List.range_eq_range'])).symm

/-- Room left and the room an append finds are the same. -/
theorem roomLeft_iff (s : State) : roomLeft s ↔ hasRoom s.cfg s.rxLen = true := by
  cases h : s.cfg.maxFrameLen <;> simp [roomLeft, hasRoom, h]

end Sys2Proof.Machine
end

