-- ==== Sys2Proof/Laws/Ieee.lean ====
section
/-! SUPPORT. The laws of rounding: it depends on the quotient alone, it is monotone in it, and it never passes
infinity. -/

namespace Sys2Proof.Machine

/-- An exact quotient is not changed. -/
theorem rneDiv_exact (m : Nat) {b : Nat} (hb : 0 < b) : rneDiv (m * b) b = m := by
  simp [rneDiv, hb, Nat.mul_div_cancel _ hb]

/-- The rounded quotient is the floor or the next natural. -/
theorem rneDiv_bounds (a b : Nat) : a / b ≤ rneDiv a b ∧ rneDiv a b ≤ a / b + 1 := by
  unfold rneDiv
  simp only
  split_ifs
  · omega
  · omega
  · have := Nat.mod_lt (a / b) (y := 2) (by omega)
    omega

/-- A common factor does not change the rounded quotient. -/
theorem rneDiv_mul_right (a b : Nat) {c : Nat} (hc : 0 < c) : rneDiv (a * c) (b * c) = rneDiv a b := by
  have h1 : a * c / (b * c) = a / b := Nat.mul_div_mul_right a b hc
  have h2 : a * c % (b * c) = a % b * c := Nat.mul_mod_mul_right c a b
  have h3 : (2 * (a % b * c) < b * c) ↔ 2 * (a % b) < b := by
    rw [← mul_assoc]; exact Nat.mul_lt_mul_right hc
  have h4 : (b * c < 2 * (a % b * c)) ↔ b < 2 * (a % b) := by
    rw [← mul_assoc]; exact Nat.mul_lt_mul_right hc
  simp only [rneDiv, h1, h2, h3, h4]

/-- Rounding is monotone over one denominator. -/
theorem rneDiv_mono_left {a a' b : Nat} (h : a ≤ a') : rneDiv a b ≤ rneDiv a' b := by
  rcases Nat.lt_or_ge (a / b) (a' / b) with hq | hq
  · exact (rneDiv_bounds a b).2.trans (le_trans hq (rneDiv_bounds a' b).1)
  · have hq : a / b = a' / b := le_antisymm (Nat.div_le_div_right h) hq
    have h1 := Nat.div_add_mod a b
    have h2 := Nat.div_add_mod a' b
    rw [hq] at h1
    have hr : a % b ≤ a' % b := by omega
    unfold rneDiv
    simp only [hq]
    have := Nat.mod_lt (a' / b) (y := 2) (by omega)
    split_ifs <;> omega

/-- Rounding is monotone in the quotient. -/
theorem rneDiv_mono {a b a' b' : Nat} (hb : 0 < b) (hb' : 0 < b') (h : a * b' ≤ a' * b) :
    rneDiv a b ≤ rneDiv a' b' := by
  rw [← rneDiv_mul_right a b hb', ← rneDiv_mul_right a' b' hb, Nat.mul_comm b' b]
  exact rneDiv_mono_left h

/-- A quotient below `m` rounds to at most `m`. -/
theorem rneDiv_le_of_lt {a b m : Nat} (h : a / b < m) : rneDiv a b ≤ m :=
  (rneDiv_bounds a b).2.trans h

/-- What is rounded never passes infinity. -/
theorem roundMag_le_inf (fb qu inf n d : Nat) : roundMag fb qu inf n d ≤ inf := Nat.min_le_right _ _

/-- Rounding to a format is monotone in the quotient. -/
theorem roundMag_mono (fb qu inf : Nat) {n d n' d' : Nat} (hd : 0 < d) (hd' : 0 < d')
    (h : n * d' ≤ n' * d) : roundMag fb qu inf n d ≤ roundMag fb qu inf n' d' := by
  unfold roundMag
  simp only
  apply min_le_min_right
  generalize hN : n * 2 ^ qu = N
  generalize hN' : n' * 2 ^ qu = N'
  have hNN : N * d' ≤ N' * d := by
    subst hN hN'
    calc n * 2 ^ qu * d' = n * d' * 2 ^ qu := by ring
      _ ≤ n' * d * 2 ^ qu := Nat.mul_le_mul_right _ h
      _ = n' * 2 ^ qu * d := by ring
  have hq : N / d ≤ N' / d' := by
    rw [Nat.le_div_iff_mul_le hd']
    refine Nat.le_of_mul_le_mul_right ?_ hd
    calc N / d * d' * d = N / d * d * d' := by ring
      _ ≤ N * d' := Nat.mul_le_mul_right _ (Nat.div_mul_le_self N d)
      _ ≤ N' * d := hNN
  have hk : (N / d).log2 - fb ≤ (N' / d').log2 - fb :=
    Nat.sub_le_sub_right (by
      rcases Nat.eq_zero_or_pos (N / d) with h0 | h0
      · simp [h0]
      · exact (Nat.le_log2 (by omega)).mpr ((Nat.log2_self_le (by omega)).trans hq)) fb
  generalize hkd : (N / d).log2 - fb = k at hk ⊢
  generalize hkd' : (N' / d').log2 - fb = k' at hk ⊢
  rcases Nat.lt_or_ge k k' with hlt | hge
  · have hup : rneDiv N (d * 2 ^ k) ≤ 2 ^ (fb + 1) := by
      apply rneDiv_le_of_lt
      rw [← Nat.div_div_eq_div_mul, Nat.div_lt_iff_lt_mul (by positivity), ← pow_add]
      rcases Nat.eq_zero_or_pos (N / d) with h0 | h0
      · rw [h0]; positivity
      · exact (Nat.log2_lt (by omega)).mp (by omega)
    have hlow : 2 ^ fb ≤ rneDiv N' (d' * 2 ^ k') := by
      refine le_trans ?_ (rneDiv_bounds _ _).1
      rw [← Nat.div_div_eq_div_mul, Nat.le_div_iff_mul_le (by positivity), ← pow_add]
      have hlog : (N' / d').log2 = fb + k' := by omega
      rw [← hlog]
      refine Nat.log2_self_le fun h0 => ?_
      rw [h0] at hlog
      simp at hlog
      omega
    calc k * 2 ^ fb + rneDiv N (d * 2 ^ k) ≤ k * 2 ^ fb + 2 ^ (fb + 1) := by omega
      _ = (k + 1) * 2 ^ fb + 2 ^ fb := by ring
      _ ≤ k' * 2 ^ fb + rneDiv N' (d' * 2 ^ k') :=
        Nat.add_le_add (Nat.mul_le_mul_right _ hlt) hlow
  · have hkk : k = k' := le_antisymm hk hge
    subst hkk
    refine Nat.add_le_add_left (rneDiv_mono (by positivity) (by positivity) ?_) _
    calc N * (d' * 2 ^ k) = N * d' * 2 ^ k := by ring
      _ ≤ N' * d * 2 ^ k := Nat.mul_le_mul_right _ hNN
      _ = N' * (d * 2 ^ k) := by ring

end Sys2Proof.Machine
end

