-- ==== Sys2Proof/Laws/PerInstr.lean ====
section
/-! SUPPORT. The per-operation family `EventShape`: the event that carries an operation has the shape of the
operation's format (`30_encoding.md` R70). -/

namespace Sys2Proof.Laws

/-- An event has the shape of a format (R70): the port and the number of bytes, or a call. -/
def eventShape : Format → Event → Bool
  | .rxb, .datum .rx bs => decide (bs.length = 1)
  | .txb, .datum .payload bs => decide (bs.length = 1)
  | .txf, .datum (.command _) _ => true
  | .favg, .datum .frame bs => decide (bs.length = 4)
  | .ftick, .datum .frame bs => decide (bs.length = 5)
  | .fburst, .datum .frame bs => decide (bs.length ≠ 4) && decide (bs.length ≠ 5)
  | .w16, .datum .word bs => decide (bs.length = 2)
  | .ctl, .call _ => true
  | _, _ => false

namespace EventShape

/-- The event of a well-formed operation has the shape of its format, under every configuration. -/
def Statement (i : Instr) : Prop := ∀ c : Cfg, i.wf c = true → eventShape i.format (encode c i) = true

theorem rxEsc : Statement .rxEsc := fun _ _ => rfl
theorem rxEtx : Statement .rxEtx := fun _ _ => rfl
theorem rxData (b : Byte) : Statement (.rxData b) := fun _ _ => rfl
theorem rxUnesc (b : Byte) : Statement (.rxUnesc b) := fun _ _ => rfl
theorem txStuffStx : Statement .txStuffStx := fun _ _ => rfl
theorem txStuffEtx : Statement .txStuffEtx := fun _ _ => rfl
theorem txStuffEsc : Statement .txStuffEsc := fun _ _ => rfl
theorem txLit (p : Byte) : Statement (.txLit p) := fun _ _ => rfl
theorem txFrame (p : List Byte) (o : SinkOutcome) : Statement (.txFrame p o) := fun _ _ => rfl
theorem frmAvg (v : Word32) : Statement (.frmAvg v) := fun _ _ => rfl
theorem frmTick (k : Word32) (x : Byte) : Statement (.frmTick k x) := fun _ _ => rfl
theorem frmBurst (f : List Byte) : Statement (.frmBurst f) := fun _ h => h
theorem wNone (c : Code) : Statement (.wNone c) := fun _ _ => rfl
theorem wLow (c : Code) : Statement (.wLow c) := fun _ _ => rfl
theorem wMid (c : Code) : Statement (.wMid c) := fun _ _ => rfl
theorem wHigh (c : Code) : Statement (.wHigh c) := fun _ _ => rfl
theorem reset : Statement .reset := fun _ _ => rfl
theorem start (d : Token) : Statement (.start d) := fun _ _ => rfl
theorem openDone (v : Verdict) : Statement (.openDone v) := fun _ _ => rfl
theorem stop : Statement .stop := fun _ _ => rfl
theorem send (cmd : Option (List Byte)) (o : SinkOutcome) : Statement (.send cmd o) := fun _ _ => rfl
theorem setcal (l m h : Word64) : Statement (.setcal l m h) := fun _ _ => rfl
theorem rxbyte (b : Byte) : Statement (.rxbyte b) := fun _ _ => rfl
theorem transportFail (c : Option Token) : Statement (.transportFail c) := fun _ _ => rfl

end EventShape
end Sys2Proof.Laws
end

