-- ==== Sys2Proof/Tests/Slice0.lean ====
section
/-! SUPPORT. Tests of single steps and of the decoder. Expected values are those of `95_test_vectors.md` (each
test names its vector) or are worked out by hand from the rule named; none is the model's own answer. -/

namespace Sys2Proof.Tests

open Machine

/-! ## Small states -/

/-- A running session with nothing received. -/
def running : State := { State.reset with run := .running }

/-- A running session with bytes received, under a configuration. -/
def holding (l : List Byte) (s : State) : State := { s with rxBuf := bufferOf l, rxLen := l.length }

/-- `CFG_EX` with the bound 6 (vectors V-RX-20 to V-RX-25). -/
def bound6 : Cfg := { Config.cfgEx with maxFrameLen := some 6 }

/-- A running session whose buffer is full, under the bound 6 (after V-RX-20). -/
def full6 : State := holding [0x41#8, 0x42#8, 0x43#8, 0x44#8, 0x45#8, 0x46#8] { running with cfg := bound6 }

/-- What an operation leaves, through a view; nothing if it stops. -/
def after {α : Type} (view : State → α) (i : Instr) (s : State) : Option α := (nextOf (exec i s)).map view

/-! ## WellFormed: each check refuses an ill-formed term (R5, R71, R72, R77) -/

theorem test_wf_cfgEx : Config.cfgEx.wf = true := by decide +kernel
theorem test_wf_bound6 : bound6.wf = true := by decide +kernel
theorem test_wf_stx_etx : Cfg.wf { Config.cfgEx with stx := 0x03#8 } = false := by decide +kernel
theorem test_wf_stx_esc : Cfg.wf { Config.cfgEx with stx := 0x1F#8 } = false := by decide
theorem test_wf_etx_esc : Cfg.wf { Config.cfgEx with etx := 0x1F#8 } = false := by decide
theorem test_wf_scale_zero : Cfg.wf { Config.cfgEx with adcScale := 0#64 } = false := by decide
theorem test_wf_tick : Cfg.wf { Config.cfgEx with tTickUs := 2 ^ 32 } = false := by decide
theorem test_wf_rangeMap_twice :
    Cfg.wf { Config.cfgEx with rangeMap := { Config.rangeMapDefault with at01 := .none } } = false := by
  decide +kernel
theorem test_wf_rangeMap_invalid :
    Cfg.wf { Config.cfgEx with rangeMap := { Config.rangeMapDefault with at00 := .invalid } } = false := by
  decide +kernel
theorem test_wf_bound4 : Cfg.wf { Config.cfgEx with maxFrameLen := some 4 } = false := by decide
theorem test_wf_data_esc : (Instr.rxData 0x1F#8).wf Config.cfgEx = false := by decide
theorem test_wf_data_etx : (Instr.rxData 0x03#8).wf Config.cfgEx = false := by decide
theorem test_wf_lit_stx : (Instr.txLit 0x02#8).wf Config.cfgEx = false := by decide
theorem test_wf_burst4 : (Instr.frmBurst [0#8, 0#8, 0#8, 0#8]).wf Config.cfgEx = false := by decide
theorem test_wf_burst5 : (Instr.frmBurst [0#8, 0#8, 0#8, 0#8, 0#8]).wf Config.cfgEx = false := by decide
theorem test_selected_unesc : (Instr.rxUnesc 0x03#8).selectedIn tableCtx = false := by decide
theorem test_selected_stopped :
    Instr.rxEsc.selectedIn { tableCtx with run := .stopped } = false := by decide

/-! ## Decode: words written out from the encodings of R71 to R78 -/

/-- A context waiting for the byte after `ESC`. -/
def escCtx : Ctx := { tableCtx with rxState := .escapePending }

theorem test_decode_rxEsc : decode tableCtx (.datum .rx [0x1F#8]) = .op .rxEsc := by decide
theorem test_decode_rxEtx : decode tableCtx (.datum .rx [0x03#8]) = .op .rxEtx := by decide
theorem test_decode_rxData_stx : decode tableCtx (.datum .rx [0x02#8]) = .op (.rxData 0x02#8) := by decide
theorem test_decode_rxUnesc_etx : decode escCtx (.datum .rx [0x03#8]) = .op (.rxUnesc 0x03#8) := by decide
theorem test_decode_txStuffStx : decode tableCtx (.datum .payload [0x02#8]) = .op .txStuffStx := by decide
theorem test_decode_txStuffEtx : decode tableCtx (.datum .payload [0x03#8]) = .op .txStuffEtx := by decide
theorem test_decode_txStuffEsc : decode tableCtx (.datum .payload [0x1F#8]) = .op .txStuffEsc := by decide
theorem test_decode_txLit : decode tableCtx (.datum .payload [0x22#8]) = .op (.txLit 0x22#8) := by decide
theorem test_decode_txFrame :
    decode tableCtx (.datum (.command .ok) [0x41#8]) = .op (.txFrame [0x41#8] .ok) := by decide
/-- `[00 00 80 3F]` is binary32 1.0 (R53's own example). -/
theorem test_decode_frmAvg :
    decode tableCtx (.datum .frame [0x00#8, 0x00#8, 0x80#8, 0x3F#8]) = .op (.frmAvg 0x3F800000#32) := by decide
/-- `[E8 03 00 00 FF]` is 1000 ticks and an ignored byte (S4, V-FRM-5). -/
theorem test_decode_frmTick :
    decode tableCtx (.datum .frame [0xE8#8, 0x03#8, 0x00#8, 0x00#8, 0xFF#8])
      = .op (.frmTick 1000#32 0xFF#8) := by decide
theorem test_decode_frmBurst :
    decode tableCtx (.datum .frame [0x64#8, 0x40#8]) = .op (.frmBurst [0x64#8, 0x40#8]) := by decide
/-- Range `00`, code 100 (R162's example). -/
theorem test_decode_wNone : decode tableCtx (.datum .word [0x64#8, 0x00#8]) = .op (.wNone 100#14) := by decide
/-- Range `01`, code 100 (V-W-5). -/
theorem test_decode_wLow : decode tableCtx (.datum .word [0x64#8, 0x40#8]) = .op (.wLow 100#14) := by decide
/-- Range `10`, code 4660 (V-W-9). -/
theorem test_decode_wMid : decode tableCtx (.datum .word [0x34#8, 0x92#8]) = .op (.wMid 4660#14) := by decide
/-- Range `11`, code 16383 (V-W-14). -/
theorem test_decode_wHigh : decode tableCtx (.datum .word [0xFF#8, 0xFF#8]) = .op (.wHigh 16383#14) := by decide
theorem test_decode_calls :
    [Call.reset, .start 7, .openDone .metaFail, .stop, .send none .ok, .setcal 1#64 2#64 3#64, .rxbyte 0x41#8,
        .transportFail none].map (fun c => decode tableCtx (.call c))
      = [.op .reset, .op (.start 7), .op (.openDone .metaFail), .op .stop, .op (.send none .ok),
         .op (.setcal 1#64 2#64 3#64), .op (.rxbyte 0x41#8), .op (.transportFail none)] := by decide
theorem test_decode_width : decode tableCtx (.datum .word [0x64#8]) = .datumWidth := by decide
theorem test_decode_stopped :
    decode { tableCtx with run := .stopped } (.datum .rx [0x03#8]) = .notSelected := by decide
/-- Another `RANGE_MAP`, Low and Mid exchanged (D7): the range field selects by it, and encodes by it. -/
def swapped : Cfg := { Config.cfgEx with rangeMap := { Config.rangeMapDefault with at01 := .mid, at10 := .low } }

theorem test_decode_other_rangeMap :
    (decode { tableCtx with cfg := swapped } (.datum .word [0x64#8, 0x40#8]),
        encode swapped (.wLow 100#14))
      = (.op (.wMid 100#14), .datum .word [0x64#8, 0x80#8]) := by decide
theorem test_table_words :
    [decodeTableWord 16 0x0000, decodeTableWord 16 0x4064, decodeTableWord 16 0x8000, decodeTableWord 16 0xFFFF,
        decodeTableWord 8 0x1F]
      = [some (.wNone 0#14), some (.wLow 100#14), some (.wMid 0#14), some (.wHigh 16383#14), some .rxEsc] := by
  decide

/-! ## The scaler (V-W, evaluated there with IEEE-754 arithmetic) -/

/-- 1.8, 28.0 and 510.0 as binary64 patterns. -/
theorem test_defaults :
    [State.reset.rLow, State.reset.rMid, State.reset.rHigh]
      = [0x3FFCCCCCCCCCCCCD#64, 0x403C000000000000#64, 0x407FE00000000000#64] := by decide +kernel
/-- V-W-3, 4, 5, 6 (Low). -/
theorem test_scale_low :
    [0#14, 1#14, 100#14, 16383#14].map (fun k => scale Config.cfgEx k State.reset.rLow)
      = [0x00000000#32, 0x4122C2AB#32, 0x447E502B#32, 0x4822C020#32] := by decide +kernel
/-- V-W-7 to V-W-10 (Mid). -/
theorem test_scale_mid :
    [0#14, 100#14, 4660#14, 16383#14].map (fun k => scale Config.cfgEx k State.reset.rMid)
      = [0x00000000#32, 0x4282CA25#32, 0x453E765F#32, 0x46276687#32] := by decide +kernel
/-- V-W-11 to V-W-14 (High). -/
theorem test_scale_high :
    [0#14, 1#14, 100#14, 16383#14].map (fun k => scale Config.cfgEx k State.reset.rHigh)
      = [0x00000000#32, 0x3D130F0F#32, 0x4065C788#32, 0x44130CC3#32] := by decide +kernel
/-- V-W-15, 16, 17: resistors 2.0, 3.6, 0.9. -/
theorem test_scale_resistors :
    [ofRat64 2 1, ofRat64 36 10, ofRat64 9 10].map (scale Config.cfgEx 100#14)
      = [0x4464E1C0#32, 0x43FE502B#32, 0x44FE502B#32] := by decide +kernel
/-- The first step of V-W-5: `ADC_SCALE / 1.8 = 0x1.5555555555555p-17`. -/
theorem test_div_gain : div64 0x3EF3333333333333#64 State.reset.rLow = 0x3EE5555555555555#64 := by decide +kernel
/-- The third step of V-W-5: `0x1.0aaaaaaaaaaaap-10 × 1000000 = 0x1.fca0555555554p+9`. -/
theorem test_mul_micro : mul64 0x3F50AAAAAAAAAAAA#64 (ofNat64 1000000) = 0x408FCA0555555554#64 := by
  decide +kernel
/-- R168: a gain that overflows binary64 is `+inf`; an infinite resistor gives `+0.0`. -/
theorem test_div_corners :
    [div64 0x3EF3333333333333#64 1#64, div64 0x3EF3333333333333#64 0x7FF0000000000000#64]
      = [0x7FF0000000000000#64, 0#64] := by decide +kernel

/-! ## One step per operation -/

/-- V-RX-2. -/
theorem test_rxEsc :
    after (fun s => (s.rxState, s.rxBuf)) .rxEsc (holding [0x41#8] running)
      = some (.escapePending, [(0, 0x41#8)]) := by decide
/-- V-RX-12. -/
theorem test_rxEtx :
    after (fun s => (s.rxBuf, s.rxLen, s.ts, s.evOut)) .rxEtx
        (holding [0x00#8, 0x00#8, 0x80#8, 0x3F#8] running)
      = some ([], 0, 13#64, [.average 0x3F800000#32 0#64]) := by decide
/-- V-RX-24: a frame that overflowed is discarded without classification. -/
theorem test_rxEtx_overflowed :
    after (fun s => (s.rxBuf, s.rxOvf, s.evOut)) .rxEtx { full6 with rxOvf := true }
      = some ([], false, []) := by decide
/-- V-RX-6: `STX` is data. -/
theorem test_rxData :
    after (fun s => (s.rxBuf, s.rxLen)) (.rxData 0x02#8) running = some ([(0, 0x02#8)], 1) := by decide
/-- V-RX-21: the first byte past the bound. -/
theorem test_rxData_overflow :
    after (fun s => (s.rxLen, s.rxOvf, s.evOut)) (.rxData 0x47#8) full6
      = some (6, true, [.error { kind := .overflow, stage := .codec, info := .none }]) := by decide
/-- V-RX-3. -/
theorem test_rxUnesc :
    after (fun s => (s.rxState, s.rxBuf)) (.rxUnesc 0x23#8)
        { holding [0x41#8] running with rxState := .escapePending }
      = some (.normal, [(0, 0x41#8), (1, 0x03#8)]) := by decide
/-- R121's example. -/
theorem test_txStuff :
    [after State.opOut .txStuffStx running, after State.opOut .txStuffEtx running,
        after State.opOut .txStuffEsc running]
      = [some [.bytes [0x1F#8, 0x22#8]], some [.bytes [0x1F#8, 0x23#8]], some [.bytes [0x1F#8, 0x3F#8]]] := by
  decide
/-- R122's example. -/
theorem test_txLit : after State.opOut (.txLit 0x22#8) running = some [.bytes [0x22#8]] := by decide
/-- V-TX-7. -/
theorem test_txFrame :
    after State.txOut (.txFrame [0x02#8, 0x03#8, 0x1F#8, 0x41#8] .ok) running
      = some [.send [0x02#8, 0x1F#8, 0x22#8, 0x1F#8, 0x23#8, 0x1F#8, 0x3F#8, 0x41#8, 0x03#8]] := by decide
/-- V-TX-11, V-TX-12: other configurations. -/
theorem test_encode_other_cfg :
    [encodeFrame { Config.cfgEx with stx := 0xAA#8, etx := 0x55#8, esc := 0x7D#8 } [0xAA#8, 0x55#8, 0x7D#8, 0x00#8],
        encodeFrame { Config.cfgEx with etx := 0x22#8 } [0x02#8]]
      = [[0xAA#8, 0x7D#8, 0x8A#8, 0x7D#8, 0x75#8, 0x7D#8, 0x5D#8, 0x00#8, 0x55#8],
         [0x02#8, 0x1F#8, 0x22#8, 0x22#8]] := by decide
/-- V-FRM-2: a NaN passes through. -/
theorem test_frmAvg :
    after (fun s => (s.ts, s.evOut)) (.frmAvg 0x7FC00001#32) running
      = some (13#64, [.average 0x7FC00001#32 0#64]) := by decide
/-- V-FRM-21: the sum is exactly 2^64. -/
theorem test_frmAvg_wraps :
    after State.ts (.frmAvg 0#32)
        { running with ts := 18446744065119617025#64, cfg := { Config.cfgEx with tSampleUs := 8589934591 } }
      = some 0#64 := by decide
/-- V-FRM-6. -/
theorem test_frmTick :
    after (fun s => (s.ts, s.evOut)) (.frmTick 0xFFFFFFFF#32 0#8) { running with ts := 77#64 }
      = some (55834574835#64, []) := by decide
/-- V-FRM-10. -/
theorem test_frmBurst :
    after (fun s => (s.ts, s.evOut)) (.frmBurst [0x64#8, 0x40#8, 0x64#8, 0x80#8, 0x64#8, 0xC0#8])
        { running with ts := 13000#64 }
      = some (13000#64, [.trigger [0x447E502B#32, 0x4282CA25#32, 0x4065C788#32] 13039#64]) := by decide +kernel
/-- V-FRM-19: the first bad word is reported, once. -/
theorem test_frmBurst_fails :
    after State.evOut (.frmBurst [0x64#8, 0x40#8, 0x00#8, 0x00#8, 0x00#8, 0x00#8]) running
      = some [.error { kind := .rangeNone, stage := .decode, info := .wordIndex 1 }] := by decide
/-- R160's arm for `Invalid`, which only an ill-formed `RANGE_MAP` reaches (R169). -/
theorem test_frmBurst_invalid :
    after State.evOut (.frmBurst [0x00#8, 0x00#8])
        { running with cfg := { Config.cfgEx with rangeMap := { Config.rangeMapDefault with at00 := .invalid } } }
      = some [.error { kind := .rangeInvalid, stage := .decode, info := .wordIndex 0 }] := by decide
/-- V-W-2, V-W-5, V-W-8, V-W-13. -/
theorem test_words :
    [after State.opOut (.wNone 16383#14) running, after State.opOut (.wLow 100#14) running,
        after State.opOut (.wMid 100#14) running, after State.opOut (.wHigh 100#14) running]
      = [some [.word (.fail .rangeNone)], some [.word (.ok 0x447E502B#32)], some [.word (.ok 0x4282CA25#32)],
         some [.word (.ok 0x4065C788#32)]] := by decide +kernel
/-- V-CTL-1. -/
theorem test_reset :
    (nextOf (exec .reset { holding [0x41#8] running with ts := 26#64, rLow := 5#64, txOut := [.close] }))
      = some State.reset := by decide +kernel
/-- V-CTL-2, V-CTL-4. -/
theorem test_start :
    [after (fun s => (s.run, s.txOut, s.results)) (.start 7) State.reset,
        after (fun s => (s.run, s.txOut, s.results)) (.start 7) running]
      = [some (.starting, [.openLink 7], []),
         some (.running, [], [.startErr { kind := .doubleStart, stage := .usage, info := .none }])] := by
  decide
/-- V-CTL-5, V-CTL-6, V-CTL-7. -/
theorem test_openDone :
    [Verdict.ok 9, .metaFail, .transportFail none].map
        (fun v => after (fun s => (s.run, s.txOut, s.results)) (.openDone v) { State.reset with run := .starting })
      = [some (.running, [], [.startOk 9]),
         some (.stopped, [.close], [.startErr { kind := .metadata, stage := .metadata, info := .none }]),
         some (.stopped, [], [.startErr { kind := .transport, stage := .transport, info := .cause none }])] := by
  decide
/-- V-CTL-9, V-CTL-11. -/
theorem test_stop :
    [nextOf (exec .stop { holding [0x00#8, 0x00#8, 0x80#8] running with rxState := .escapePending, ts := 13#64 }),
        nextOf (exec .stop { State.reset with run := .starting })]
      = [some { State.reset with txOut := [.close] }, some { State.reset with run := .starting }] := by
  decide +kernel
/-- V-CTL-15, V-CTL-16. -/
theorem test_send :
    [after (fun s => (s.run, s.rxLen, s.txOut, s.results)) (.send (some [0x41#8]) (.fail none))
          (holding [0x41#8] running),
        after (fun s => (s.run, s.rxLen, s.txOut, s.results)) (.send none .ok) (holding [0x41#8] running)]
      = [some (.stopped, 0, [.send [0x02#8, 0x41#8, 0x03#8], .close],
            [.sendErr { kind := .transport, stage := .transport, info := .cause none }]),
         some (.running, 1, [], [.sendErr { kind := .badCmd, stage := .codec, info := .none }])] := by
  decide
/-- V-CTL-17. -/
theorem test_setcal :
    after (fun s => (s.run, s.rLow, s.rMid, s.rHigh)) (.setcal (ofRat64 2 1) (ofRat64 30 1) (ofRat64 500 1))
        State.reset
      = some (.stopped, 0x4000000000000000#64, 0x403E000000000000#64, 0x407F400000000000#64) := by decide +kernel
/-- U5: zero, a negative value, an infinity and a NaN are refused. -/
theorem test_setcal_refused :
    [0#64, 0xBFF0000000000000#64, 0x7FF0000000000000#64, 0x7FF8000000000000#64].map
        (fun v => after State.rLow (.setcal v 0x3FF0000000000000#64 0x3FF0000000000000#64) State.reset)
      = [none, none, none, none] := by decide
/-- V-CTL-19, V-RX-4. -/
theorem test_rxbyte :
    [after (fun s => (s.rxState, s.rxBuf)) (.rxbyte 0x41#8) State.reset,
        after (fun s => (s.rxState, s.rxBuf)) (.rxbyte 0x03#8) { running with rxState := .escapePending }]
      = [some (.normal, []), some (.normal, [(0, 0x23#8)])] := by decide
/-- V-CTL-21. -/
theorem test_transportFail_running :
    after (fun s => (s.run, s.rxLen, s.evOut, s.txOut)) (.transportFail none) (holding [0x41#8] running)
      = some (.stopped, 0, [.error { kind := .transport, stage := .transport, info := .cause none }], [.close]) := by
  decide
/-- V-CTL-22. -/
theorem test_transportFail_starting :
    after (fun s => (s.run, s.evOut, s.results)) (.transportFail none) { State.reset with run := .starting }
      = some (.stopped, [], [.startErr { kind := .transport, stage := .transport, info := .cause none }]) := by
  decide

/-! ## The fetch -/

theorem test_step_runs_table_word :
    (nextOf (step (State.reset.withFetchWord 16 0x4064))).map (fun s => (s.opOut, s.input))
      = some ([.word (.ok 0x447E502B#32)], []) := by decide +kernel
theorem test_step_idles : nextOf (step State.reset) = some State.reset := by decide +kernel
theorem test_step_drops :
    (nextOf (step { State.reset with input := [.datum .frame [0#8, 0#8, 0#8, 0#8]] })) = some State.reset := by
  decide +kernel

/-! ## Witnesses: a state and operands that meet all hypotheses of each statement, clause by clause -/

/-- A running session that has events to take. -/
def taking (es : List Event) (s : State) : State := { s with input := es }

/-- A session being opened. -/
def starting : State := { State.reset with run := .starting }

/-- A session whose next byte is unescaped. -/
def escaping : State := { running with rxState := .escapePending }

/-- A partial burst under the bound 6, one byte below it. -/
def five6 : State := holding [0x41#8, 0x42#8, 0x43#8, 0x44#8, 0x45#8] { running with cfg := bound6 }

theorem witness_StepRunsTheDecodedOperation :
    (taking [.datum .word [0x64#8, 0x40#8]] running).input = [.datum .word [0x64#8, 0x40#8]] ∧
    decode (taking [.datum .word [0x64#8, 0x40#8]] running).ctx (.datum .word [0x64#8, 0x40#8])
      = .op (.wLow 100#14) := by decide
theorem witness_StepWithoutAnOperation :
    State.reset.input = [] ∧
    (let s := taking [.datum .rx [0x41#8]] starting
     s.input = .datum .rx [0x41#8] :: [] ∧ s.run ≠ .running) ∧
    (let s := taking [.datum .word [0x64#8]] running
     s.input = .datum .word [0x64#8] :: [] ∧ s.run = .running ∧ rightWidth (.datum .word [0x64#8]) = false) := by
  decide
theorem witness_DecodeInvertsEncode :
    tableCtx.cfg.wf = true ∧ (Instr.rxData 0x02#8).wf tableCtx.cfg = true ∧
    (Instr.rxData 0x02#8).selectedIn tableCtx = true ∧ (Instr.rxUnesc 0x03#8).wf escCtx.cfg = true ∧
    (Instr.rxUnesc 0x03#8).selectedIn escCtx = true := by decide +kernel
/-- A frame under any configuration, and a sample word under a well-formed `RANGE_MAP` that is not the default. -/
theorem witness_EncodeInvertsDecode :
    (decode tableCtx (.datum .frame [0xE8#8, 0x03#8, 0x00#8, 0x00#8, 0xFF#8]) = .op (.frmTick 1000#32 0xFF#8) ∧
      (Instr.frmTick 1000#32 0xFF#8).format ≠ .w16) ∧
    (decode { tableCtx with cfg := swapped } (.datum .word [0xFF#8, 0x7F#8]) = .op (.wMid 16383#14) ∧
      swapped.rangeMap.wf = true) := by decide
theorem witness_FramesReadLittleEndian : (frameWords [0x64#8, 0x40#8, 0x99#8])[0]? = some 0x4064#16 := by
  decide
/-- FramesAreClassifiedByLength, EventsPerFrame. -/
theorem witness_frame_lengths :
    [0x00#8, 0x00#8, 0x80#8, 0x3F#8].length = 4 ∧ [0xE8#8, 0x03#8, 0x00#8, 0x00#8, 0x00#8].length = 5 ∧
    ([0x64#8, 0x40#8, 0x99#8].length ≠ 4 ∧ [0x64#8, 0x40#8, 0x99#8].length ≠ 5) ∧
    (([] : List Byte).length ≠ 4 ∧ ([] : List Byte).length ≠ 5) := by decide
theorem witness_RxbyteDispatches :
    (running.run = .running ∧ running.rxState = .normal) ∧
    (0x1F#8 = running.cfg.esc) ∧ (0x03#8 ≠ running.cfg.esc ∧ 0x03#8 = running.cfg.etx) ∧
    (0x02#8 ≠ running.cfg.esc ∧ 0x02#8 ≠ running.cfg.etx) ∧
    (escaping.run = .running ∧ escaping.rxState = .escapePending) := by decide
/-- RxbyteDroppedOutsideRunning, SendUsageErrorsChangeNothing. -/
theorem witness_not_running : State.reset.run ≠ .running ∧ starting.run ≠ .running := by decide
/-- RxbyteCompletes. -/
theorem witness_bufferExact : bufferExact full6 ∧ bufferExact running := by decide
/-- RxDataAppends, RxUnescAppends. -/
theorem witness_roomLeft : roomLeft five6 ∧ five6.rxLen + 1 = 6 ∧ roomLeft running := by decide
theorem witness_AppendAtTheBound :
    full6.cfg.maxFrameLen = some 6 ∧ 6 ≤ full6.rxLen ∧ full6.rxOvf = false ∧
    ({ full6 with rxOvf := true } : State).rxOvf = true := by decide
theorem witness_RxEtxEndsTheFrame :
    (bufferExact full6 ∧ full6.rxOvf = false) ∧ ({ full6 with rxOvf := true } : State).rxOvf = true := by
  decide
/-- With room for one byte, and at the bound. -/
theorem witness_EscapePrefixTakesOneByte :
    (let s := taking (rxEvents [0x1F#8, 0x03#8]) five6
     s.run = .running ∧ s.rxState = .normal ∧ s.input = rxEvents [s.cfg.esc, 0x03#8] ++ [] ∧ roomLeft s) ∧
    (let s := taking (rxEvents [0x1F#8, 0x1F#8]) full6
     s.run = .running ∧ s.rxState = .normal ∧ s.input = rxEvents [s.cfg.esc, 0x1F#8] ++ [] ∧ ¬ roomLeft s) := by
  decide
theorem witness_StreamRefinesTheFunctionalDecoder :
    let s := taking (rxEvents [0x23#8, 0x03#8]) escaping
    s.run = .running ∧ s.cfg.maxFrameLen = none ∧ s.rxOvf = false ∧ bufferExact s ∧
    s.input = rxEvents [0x23#8, 0x03#8] ++ [] := by decide
theorem witness_StuffedBodyIsReceivedExactly :
    let s := taking (rxEvents (txBody Config.cfgEx [0x02#8])) (holding [0x41#8] running)
    s.cfg.wf = true ∧ s.cfg.maxFrameLen = none ∧ s.run = .running ∧ s.rxState = .normal ∧ bufferExact s ∧
    s.input = rxEvents (txBody s.cfg [0x02#8]) ++ [] := by decide +kernel
theorem witness_FramedPayloadIsOneFrame :
    let s := taking (rxframe Config.cfgEx [0x03#8]) running
    s.cfg.wf = true ∧ s.cfg.maxFrameLen = none ∧ s.run = .running ∧ s.rxState = .normal ∧ s.rxBuf = [] ∧
    s.rxLen = 0 ∧ s.rxOvf = false ∧ s.input = rxframe s.cfg [0x03#8] ++ [] := by decide +kernel
theorem witness_LoopBackPrependsStx :
    let s := taking (loopback Config.cfgEx [0x03#8]) running
    s.cfg.wf = true ∧ s.cfg.maxFrameLen = none ∧ s.run = .running ∧ s.rxState = .normal ∧ s.rxBuf = [] ∧
    s.rxLen = 0 ∧ s.rxOvf = false ∧ s.input = loopback s.cfg [0x03#8] ++ [] := by decide +kernel
theorem witness_CleanBodyHasNoMarker : Config.cfgEx.wf = true ∧ cleanCfg Config.cfgEx = true := by decide +kernel
theorem witness_EncodingIsInjective :
    Config.cfgEx.wf = true ∧ encodeFrame Config.cfgEx [0x02#8] = encodeFrame Config.cfgEx [0x02#8] := by
  decide +kernel
theorem witness_FrmTickReplacesTs : running.cfg.wf = true := by decide +kernel
/-- The greatest word with range None, and words at the bounds of the ranges that measure. -/
theorem witness_FrmBurstResult :
    (∀ w ∈ frameWords [0x00#8, 0x40#8, 0xFF#8, 0xFF#8, 0x64#8, 0x80#8, 0x99#8],
      measures (rangeOf running.cfg w) = true) ∧
    frameWords [0x64#8, 0x40#8, 0xFF#8, 0x3F#8, 0x00#8, 0x00#8] = [0x4064#16] ++ 0x3FFF#16 :: [0x0000#16] ∧
    (∀ u ∈ [0x4064#16], measures (rangeOf running.cfg u) = true) ∧
    measures (rangeOf running.cfg 0x3FFF#16) = false := by
  refine ⟨List.all_eq_true.mp ?_, ?_, List.all_eq_true.mp ?_, ?_⟩ <;> decide
/-- Words at both ends of each range. -/
theorem witness_WordFieldsPartitionTheWord :
    ((0x3FFF#16).toNat < 0x4000) ∧ (0x4000 ≤ (0x4000#16).toNat ∧ (0x7FFF#16).toNat < 0x8000) ∧
    (0x8000 ≤ (0x8000#16).toNat ∧ (0xBFFF#16).toNat < 0xC000) ∧ 0xC000 ≤ (0xC000#16).toNat ∧
    Config.rangeMapDefault.wf = true ∧ swapped.rangeMap.wf = true := by decide
theorem witness_RoundingIsToNearestEven :
    0 < 2 ∧ 2 * (rneDiv 3 2 * 2) = 2 * 3 + 2 ∧ 2 * 1 = 2 * (rneDiv 1 2 * 2) + 2 := by decide
theorem witness_FiniteValuesRoundToThemselves :
    magBits64 0x7FEFFFFFFFFFFFFF#64 < infBits64 ∧ magBits64 0#64 < infBits64 := by decide
/-- ScaleOfZeroIsZero, ScaleIsNeverNegativeNorNan, ScaleIsMonotoneInTheCode, ScaleIsAntitoneInTheResistor: the
least and the largest code, the default and the largest resistor. -/
theorem witness_scale :
    Config.cfgEx.numerics = .ieee ∧ valid64 Config.cfgEx.adcScale = true ∧ valid64 State.reset.rLow = true ∧
    valid64 0x7FEFFFFFFFFFFFFF#64 = true ∧ State.reset.rLow.toNat ≤ (0x7FEFFFFFFFFFFFFF#64).toNat ∧
    magBits64 (div64 Config.cfgEx.adcScale State.reset.rLow) < infBits64 ∧
    magBits64 (div64 Config.cfgEx.adcScale 0x7FEFFFFFFFFFFFFF#64) < infBits64 ∧
    (0#14).toNat ≤ (16383#14).toNat := by decide +kernel
/-- ResetValues. -/
theorem witness_numerics : Config.cfgEx.numerics = .ieee := by decide
/-- StartOpensTheTransport, DoubleStartChangesNothing, OpenDoneCompletesTheStart, StopEndsTheSession,
SendUsageErrorsChangeNothing, SendFramesTheCommand, TransportFailEndsTheSession. -/
theorem witness_lifecycle :
    State.reset.run = .stopped ∧ starting.run = .starting ∧ running.run = .running ∧ State.reset.run ≠ .starting ∧
    running.run ≠ .starting ∧ starting.run ≠ .stopped ∧ running.run ≠ .stopped := by decide
theorem witness_SetcalWritesTheTriple :
    (cfgNum running.cfg).validF 1#64 = true ∧ (cfgNum running.cfg).validF 0x7FEFFFFFFFFFFFFF#64 = true ∧
    (cfgNum running.cfg).validF 0#64 = false ∧ (cfgNum running.cfg).validF 0x7FF0000000000000#64 = false ∧
    (cfgNum running.cfg).validF 0x8000000000000001#64 = false := by decide
/-- The invariants hold of a running session with bytes received, at the bound. -/
theorem witness_Inv : State.Inv (taking [.call (.rxbyte 0x47#8)] full6) :=
  { cfg := by decide +kernel, buffer := by decide +kernel, bounded := by decide +kernel,
    calibration := by decide +kernel, overflow := by decide +kernel, idle := by decide +kernel }
/-- With `witness_Inv`: StepKeepsTheInvariant. By itself: ConfigurationIsHardwired. -/
theorem witness_StepKeepsTheInvariant : ∃ t, step (taking [.call (.rxbyte 0x47#8)] full6) = .next t := ⟨_, rfl⟩
theorem witness_PowerOnMeetsTheInvariant : Config.cfgEx.wf = true ∧ bound6.wf = true := by decide +kernel
/-- With `witness_Inv`: StepAnswersUnderTheInvariant. -/
theorem witness_StepAnswersUnderTheInvariant :
    rightWidth (.call (.rxbyte 0x47#8)) = true ∧ inDuty full6.cfg (.call (.rxbyte 0x47#8)) = true ∧
    inDuty full6.cfg (.call (.setcal 1#64 1#64 1#64)) = true := by decide
theorem witness_StepKeepsTheBufferCanonical :
    full6.rxBuf.wf ∧ ∃ t, step (taking [.call (.rxbyte 0x47#8)] full6) = .next t := ⟨by decide, _, rfl⟩
/-- LifecycleMovesAsTabulated, CalibrationChangesOnlyBySetcalOrReset, AtMostOneEventPerOperation,
HistoryIsNeverRead. -/
theorem witness_operation_answers :
    (Instr.rxData 0x47#8 ≠ .reset ∧ ∀ l m h, Instr.rxData 0x47#8 ≠ .setcal l m h) ∧
    ∃ t, exec (.rxData 0x47#8) full6 = .next t := ⟨⟨nofun, nofun⟩, _, rfl⟩
theorem witness_NoEventOutsideRunning :
    starting.run ≠ .running ∧ (nextOf (step (taking [.call (.transportFail none)] starting))).isSome = true := by
  decide
theorem witness_SendAndReceiveCommute : full6.run = .running ∧ bufferExact full6 := by decide

end Sys2Proof.Tests
end

section
/-! What the control operations can do, by the lifecycle mode (`44_control_ops.md`): one inversion lemma each. -/

namespace Sys2Proof.Machine

variable {s t : State}

/-- START opens the transport from `Stopped` and reports a double start otherwise (R183, R208). -/
theorem execStart_cases {d : Token} (h : execStart d s = .next t) :
    (s.run = .stopped ∧ t = { transmit (.openLink d) s with run := .starting }) ∨
    (s.run ≠ .stopped ∧ t = giveResult (.startErr (mkErr .doubleStart .none)) s) := by
  cases hr : s.run <;> simp only [execStart, hr] at h <;> cases h
  case stopped => exact .inl ⟨rfl, rfl⟩
  case starting => exact .inr ⟨nofun, rfl⟩
  case running => exact .inr ⟨nofun, rfl⟩

/-- OPEN_DONE gives one of the three verdicts in `Starting` and changes nothing otherwise (R184). -/
theorem execOpenDone_cases {v : Verdict} (h : execOpenDone v s = .next t) :
    (s.run ≠ .starting ∧ t = s) ∨
    (s.run = .starting ∧
      ((∃ md, v = .ok md ∧ t = giveResult (.startOk md) { sessionClear s with run := .running }) ∨
       (v = .metaFail ∧
         t = giveResult (.startErr (mkErr .metadata .none)) { transmit .close s with run := .stopped }) ∨
       (∃ c, v = .transportFail c ∧ t = failOpen c s))) := by
  cases hr : s.run with
  | stopped => simp only [execOpenDone, hr] at h; cases h; exact .inl ⟨nofun, rfl⟩
  | running => simp only [execOpenDone, hr] at h; cases h; exact .inl ⟨nofun, rfl⟩
  | starting =>
    refine .inr ⟨rfl, ?_⟩
    simp only [execOpenDone, hr] at h
    cases v with
    | ok md => cases h; exact .inl ⟨md, rfl, rfl⟩
    | metaFail => cases h; exact .inr (.inl ⟨rfl, rfl⟩)
    | transportFail c => cases h; exact .inr (.inr ⟨c, rfl, rfl⟩)

/-- STOP ends a running session and changes nothing otherwise (R185). -/
theorem execStop_cases (h : execStop s = .next t) :
    (s.run = .running ∧ t = endSession s) ∨ (s.run ≠ .running ∧ t = s) := by
  cases hr : s.run <;> simp only [execStop, hr] at h <;> cases h
  case running => exact .inl ⟨rfl, rfl⟩
  case stopped => exact .inr ⟨nofun, rfl⟩
  case starting => exact .inr ⟨nofun, rfl⟩

/-- If SETCAL answers a next state, the triple was in the host's duty and is written whole (R187). -/
theorem execSetcal_cases {l m r : Word64} (h : execSetcal l m r s = .next t) :
    ((cfgNum s.cfg).validF l && (cfgNum s.cfg).validF m && (cfgNum s.cfg).validF r) = true ∧
      t = { s with rLow := l, rMid := m, rHigh := r } := by
  unfold execSetcal at h
  split at h
  · cases h
    exact ⟨by assumption, rfl⟩
  · cases h

/-- TRANSPORT_FAIL ends the session with an event, ends the start, or changes nothing (R189). -/
theorem execTransportFail_cases {c : Option Token} (h : execTransportFail c s = .next t) :
    (s.run = .running ∧ t = endSession (raise .transport (.cause c) s)) ∨
    (s.run = .starting ∧ t = failOpen c s) ∨
    (s.run = .stopped ∧ t = s) := by
  cases hr : s.run <;> simp only [execTransportFail, hr] at h <;> cases h
  case running => exact .inl ⟨rfl, rfl⟩
  case starting => exact .inr (.inl ⟨rfl, rfl⟩)
  case stopped => exact .inr (.inr ⟨rfl, rfl⟩)

end Sys2Proof.Machine
end

section
/-! The configuration is hardwired (`10_state.md` R24): every operation that answers leaves `cfg` as it was, and so
does the step. -/

namespace Sys2Proof.Machine

variable {s t : State}

@[simp] theorem frmBurst_cfg (f : List Byte) (s : State) : (frmBurst f s).cfg = s.cfg := by
  obtain ⟨e, h⟩ := frmBurst_emits f s
  rw [h, emit_cfg]

theorem execRxEtx_cfg (h : execRxEtx s = .next t) : t.cfg = s.cfg := by
  rcases execRxEtx_cases h with ⟨-, rfl⟩ | ⟨-, f, -, rfl⟩
  · exact clearFrame_cfg s
  · rw [clearFrame_cfg, classify_cfg]

theorem execRxData_cfg {b : Byte} (h : execRxData b s = .next t) : t.cfg = s.cfg := by
  cases h
  exact append_cfg b s

theorem execRxUnesc_cfg {b : Byte} (h : execRxUnesc b s = .next t) : t.cfg = s.cfg := by
  cases h
  exact append_cfg (xorByte b) s

theorem execRxbyte_cfg {b : Byte} (h : execRxbyte b s = .next t) : t.cfg = s.cfg := by
  rcases execRxbyte_cases h with ⟨-, rfl⟩ | ⟨-, hEsc | hEtx | hData | hUnesc⟩
  · rfl
  · cases hEsc; rfl
  · exact execRxEtx_cfg hEtx
  · exact execRxData_cfg hData
  · exact execRxUnesc_cfg hUnesc

theorem execStart_cfg {d : Token} (h : execStart d s = .next t) : t.cfg = s.cfg := by
  rcases execStart_cases h with ⟨-, rfl⟩ | ⟨-, rfl⟩ <;> rfl

theorem execOpenDone_cfg {v : Verdict} (h : execOpenDone v s = .next t) : t.cfg = s.cfg := by
  rcases execOpenDone_cases h with ⟨-, rfl⟩ | ⟨-, ⟨_, -, rfl⟩ | ⟨-, rfl⟩ | ⟨_, -, rfl⟩⟩ <;> rfl

theorem execStop_cfg (h : execStop s = .next t) : t.cfg = s.cfg := by
  rcases execStop_cases h with ⟨-, rfl⟩ | ⟨-, rfl⟩ <;> rfl

theorem execSend_cfg {cmd : Option (List Byte)} {o : SinkOutcome} (h : execSend cmd o s = .next t) :
    t.cfg = s.cfg := by
  rcases execSend_cases cmd o s with ⟨-, e⟩ | ⟨-, -, e⟩ | ⟨_, -, -, -, e⟩ | ⟨_, _, -, -, -, e⟩ <;>
    (rw [e] at h; cases h; rfl)

theorem execSetcal_cfg {l m r : Word64} (h : execSetcal l m r s = .next t) : t.cfg = s.cfg := by
  obtain ⟨-, rfl⟩ := execSetcal_cases h
  rfl

theorem execTransportFail_cfg {c : Option Token} (h : execTransportFail c s = .next t) :
    t.cfg = s.cfg := by
  rcases execTransportFail_cases h with ⟨-, rfl⟩ | ⟨-, rfl⟩ | ⟨-, rfl⟩ <;> rfl

/-- The operations whose meaning has no case of its own answer by an update that names no `cfg`; the others have
their lemma above. -/
theorem exec_cfg {i : Instr} (h : exec i s = .next t) : t.cfg = s.cfg := by
  cases i with
  | rxEtx => exact execRxEtx_cfg h
  | rxData b => exact execRxData_cfg h
  | rxUnesc b => exact execRxUnesc_cfg h
  | rxbyte b => exact execRxbyte_cfg h
  | frmBurst f => cases h; exact frmBurst_cfg f s
  | start d => exact execStart_cfg h
  | openDone v => exact execOpenDone_cfg h
  | stop => exact execStop_cfg h
  | send cmd o => exact execSend_cfg h
  | setcal l m r => exact execSetcal_cfg h
  | transportFail c => exact execTransportFail_cfg h
  | rxEsc | reset | frmAvg | frmTick => cases h; rfl
  | txStuffStx | txStuffEtx | txStuffEsc | txLit | txFrame => cases h; rfl
  | wNone | wLow | wMid | wHigh => cases h; rfl

theorem step_cfg (h : step s = .next t) : t.cfg = s.cfg := by
  rcases step_cases s with ⟨-, idle⟩ | ⟨_, rest, -, ⟨i, -, runs⟩ | ⟨-, drops⟩ | ⟨-, refuses⟩⟩
  · rw [idle] at h; cases h; rfl
  · rw [runs] at h; exact exec_cfg (s := { s with input := rest }) h
  · rw [drops] at h; cases h; rfl
  · rw [refuses] at h; cases h

/-- Settles O54: the step answers as the decoded operation does, or leaves all but `input`, and no operation writes
`cfg`. -/
theorem configurationIsHardwired : Obligations.ConfigurationIsHardwired := by
  intro s t h
  exact step_cfg h

end Sys2Proof.Machine
end

section
/-! The escaped byte (`30_encoding.md` R81): what a received byte does in each receive state, and the two steps of a
stuffed byte. -/

namespace Sys2Proof.Machine

variable {s : State} {b : Byte}

/-- In `Normal` the byte `ESC` changes the receive state alone (R100, R101). -/
theorem execRxbyte_esc (hrun : s.run = .running) (hnormal : s.rxState = .normal) :
    execRxbyte s.cfg.esc s = .next { s with rxState := .escapePending } := by
  simp only [execRxbyte, hrun, hnormal, if_true, execRxEsc]

/-- In `EscapePending` every byte, `ESC` and `ETX` included, is un-stuffed and ends the escape (R100, R104). -/
theorem execRxbyte_escapePending (hrun : s.run = .running) (hpending : s.rxState = .escapePending) :
    execRxbyte b s = .next { append (xorByte b) s with rxState := .normal } := by
  simp only [execRxbyte, hrun, hpending, execRxUnesc]

/-- The state after the two bytes `ESC, b`, with the events `rest` left to take. -/
def afterEscaped (b : Byte) (rest : List Event) (s : State) : State :=
  { append (xorByte b) { s with rxState := .escapePending, input := rest } with rxState := .normal }

/-- Two steps take `ESC, b` and un-stuff `b`, whatever it is. -/
theorem run_escaped {rest : List Event} (hrun : s.run = .running) (hnormal : s.rxState = .normal)
    (hinput : s.input = rxEvents [s.cfg.esc, b] ++ rest) :
    Sys2Proof.core.run 2 s = .next (afterEscaped b rest s) := by
  have escapes : step s
      = .next { s with rxState := .escapePending, input := .call (.rxbyte b) :: rest } :=
    (step_rxbyte hinput).trans
      (execRxbyte_esc (s := { s with input := .call (.rxbyte b) :: rest }) hrun hnormal)
  have unstuffs : step { s with rxState := .escapePending, input := .call (.rxbyte b) :: rest }
      = .next (afterEscaped b rest s) :=
    (step_rxbyte rfl).trans
      (execRxbyte_escapePending (s := { s with rxState := .escapePending, input := rest }) hrun rfl)
  rw [core_run_succ 1 escapes, core_run_succ 0 unstuffs]
  rfl

/-- Below the bound the two bytes store `b` un-stuffed at `rx_len` and leave all else as it was. -/
theorem afterEscaped_of_room {rest : List Event} (hnormal : s.rxState = .normal) (hroom : roomLeft s) :
    afterEscaped b rest s
      = { s with rxBuf := s.rxBuf.write s.rxLen (xorByte b), rxLen := s.rxLen + 1, input := rest } := by
  have stores := append_of_room (v := xorByte b) (s := { s with rxState := .escapePending, input := rest })
    ((roomLeft_iff s).mp hroom)
  rw [afterEscaped, stores, ← hnormal]

/-- Settles O16: `ESC` leaves the decoder in `EscapePending`, where `b` is un-stuffed without being compared with a
marker; below the bound that is one store at the old `rx_len`. -/
theorem escapePrefixTakesOneByte : Obligations.EscapePrefixTakesOneByte := by
  intro s b rest hrun hnormal hinput
  refine ⟨afterEscaped b rest s, run_escaped hrun hnormal hinput, rfl, append_input _ _, ?_⟩
  intro hroom
  rw [afterEscaped_of_room hnormal hroom]
  exact ⟨rfl, Memory.read_write_same s.rxBuf s.rxLen (xorByte b),
    fun _ ne => Memory.read_write_other s.rxBuf (xorByte b) ne, rfl⟩

end Sys2Proof.Machine
end

section
/-! The dispatch of a received byte (`40_rx_decoder.md` R100, R101): while `Running`, RXBYTE runs the operation that
format RXB selects for the byte. -/

namespace Sys2Proof

variable {x : Ctx} {b : Byte}

theorem decodeRxb_esc (hnormal : x.rxState = .normal) (hesc : b = x.cfg.esc) : decodeRxb x b = .rxEsc := by
  simp only [decodeRxb, hnormal, if_pos hesc]

theorem decodeRxb_etx (hnormal : x.rxState = .normal) (hesc : b ≠ x.cfg.esc) (hetx : b = x.cfg.etx) :
    decodeRxb x b = .rxEtx := by
  simp only [decodeRxb, hnormal, if_neg hesc, if_pos hetx]

theorem decodeRxb_data (hnormal : x.rxState = .normal) (hesc : b ≠ x.cfg.esc) (hetx : b ≠ x.cfg.etx) :
    decodeRxb x b = .rxData b := by
  simp only [decodeRxb, hnormal, if_neg hesc, if_neg hetx]

theorem decodeRxb_unesc (hpending : x.rxState = .escapePending) : decodeRxb x b = .rxUnesc b := by
  simp only [decodeRxb, hpending]

end Sys2Proof

namespace Sys2Proof.Machine

variable {s : State}

/-- The machine's dispatch and the decoder's are the same one: both test `rx_state`, then `ESC`, then `ETX`. -/
theorem exec_rxbyte_of_running (b : Byte) (hrun : s.run = .running) :
    exec (.rxbyte b) s = exec (decodeRxb s.ctx b) s := by
  change execRxbyte b s = _
  cases hstate : s.rxState with
  | escapePending =>
    rw [decodeRxb_unesc hstate]
    exact execRxbyte_escapePending hrun hstate
  | normal =>
    by_cases hesc : b = s.cfg.esc
    · rw [decodeRxb_esc hstate hesc, hesc]
      exact execRxbyte_esc hrun hstate
    · by_cases hetx : b = s.cfg.etx
      · rw [decodeRxb_etx hstate hesc hetx]
        simp only [execRxbyte, hrun, hstate, if_neg hesc, if_pos hetx, exec]
      · rw [decodeRxb_data hstate hesc hetx]
        simp only [execRxbyte, hrun, hstate, if_neg hesc, if_neg hetx, exec]

/-- Settles O8: RXBYTE runs what format RXB selects, which is one operation in each of the four cases. -/
theorem rxbyteDispatches : Obligations.RxbyteDispatches := by
  intro s b hrun
  rw [exec_rxbyte_of_running b hrun]
  refine ⟨fun hnormal hesc => ?esc, fun hnormal hesc hetx => ?etx, fun hnormal hesc hetx => ?data,
    fun hpending => ?unesc⟩
  case esc => rw [decodeRxb_esc hnormal hesc]
  case etx => rw [decodeRxb_etx hnormal hesc hetx]
  case data => rw [decodeRxb_data hnormal hesc hetx]
  case unesc => rw [decodeRxb_unesc hpending]

/-- Settles O11: RX.ESC is one record update, of `rx_state` alone. -/
theorem rxEscSetsEscapePending : Obligations.RxEscSetsEscapePending := by
  intro s
  exact rfl

end Sys2Proof.Machine
end

section
/-! The dispatch of a completed frame (`42_frame_classifier.md` R141): its length selects the operation. -/

namespace Sys2Proof

variable {f : List Byte}

theorem decodeFrame_of_length_four (h : f.length = 4) : ∃ v, decodeFrame f = .frmAvg v := by
  obtain ⟨b0, b1, b2, b3, rfl⟩ := List.length_eq_four.mp h
  exact ⟨_, rfl⟩

theorem decodeFrame_of_length_five (h : f.length = 5) : ∃ k x, decodeFrame f = .frmTick k x := by
  obtain ⟨b0, rest, rfl⟩ := List.exists_of_length_succ f h
  obtain ⟨b1, b2, b3, x, rfl⟩ := List.length_eq_four.mp (Nat.succ.inj h)
  exact ⟨_, _, rfl⟩

/-- The list patterns of `decodeFrame` fix the lengths 4 and 5, so any other frame falls through to its last arm. -/
theorem decodeFrame_of_other_length (h4 : f.length ≠ 4) (h5 : f.length ≠ 5) : decodeFrame f = .frmBurst f := by
  unfold decodeFrame
  split
  case h_1 => exact absurd rfl h4
  case h_2 => exact absurd rfl h5
  case h_3 => rfl

/-- Settles O7: the length tells which arm of `decodeFrame` a frame takes. -/
theorem framesAreClassifiedByLength : Obligations.FramesAreClassifiedByLength := by
  intro f
  exact ⟨decodeFrame_of_length_four, decodeFrame_of_length_five, decodeFrame_of_other_length⟩

end Sys2Proof
end

section
/-! The usage errors (`60_exceptions.md` R205, R206, R208): a call refused by its lifecycle check, or SEND by its
argument check, appends its error to the results and changes nothing else. -/

namespace Sys2Proof.Machine

variable {s : State}

/-- START outside `Stopped` is refused by its lifecycle check (R183, R208). -/
theorem execStart_of_not_stopped (d : Token) (hrun : s.run ≠ .stopped) :
    execStart d s = .next (giveResult (.startErr (mkErr .doubleStart .none)) s) := by
  cases hmode : s.run with
  | stopped => exact absurd hmode hrun
  | starting => simp only [execStart, hmode]
  | running => simp only [execStart, hmode]

/-- SEND outside `Running` is refused before its argument is looked at (R186, R205). -/
theorem execSend_of_not_running (cmd : Option (List Byte)) (o : SinkOutcome) (hrun : s.run ≠ .running) :
    execSend cmd o s = .next (giveResult (.sendErr (mkErr .notRunning .none)) s) := by
  rcases execSend_cases cmd o s with ⟨-, refused⟩ | ⟨running, -⟩ | ⟨_, running, -⟩ | ⟨_, _, running, -⟩
  · exact refused
  all_goals exact absurd running hrun

/-- While `Running`, SEND of no byte sequence is refused by its argument check (R186, R206). -/
theorem execSend_none_of_running (o : SinkOutcome) (hrun : s.run = .running) :
    execSend none o s = .next (giveResult (.sendErr (mkErr .badCmd .none)) s) := by
  rcases execSend_cases none o s with
    ⟨notRunning, -⟩ | ⟨-, -, refused⟩ | ⟨_, -, isSome, -⟩ | ⟨_, _, -, isSome, -⟩
  · exact absurd hrun notRunning
  · exact refused
  all_goals exact absurd isSome nofun

/-- Settles O43: outside `Stopped` START gives its error as a result, and that kind has stage usage. -/
theorem doubleStartChangesNothing : Obligations.DoubleStartChangesNothing := by
  intro s d hrun
  exact execStart_of_not_stopped d hrun

/-- Settles O46: SEND's two checks, the lifecycle first, each give their error as a result and send nothing. -/
theorem sendUsageErrorsChangeNothing : Obligations.SendUsageErrorsChangeNothing := by
  intro s o
  exact ⟨fun hrun cmd => execSend_of_not_running cmd o hrun, fun hrun => execSend_none_of_running o hrun⟩

end Sys2Proof.Machine
end

section
/-! The receive operations (`40_rx_decoder.md` section 2, `20_memory.md` section 1): an append below and at the bound,
the hand-off at a terminator, and the byte dropped outside `Running`. -/

namespace Sys2Proof.Machine

variable {s : State} {b : Byte}

/-- Outside `Running` a received byte is dropped (R188). -/
theorem execRxbyte_of_not_running (hrun : s.run ≠ .running) : execRxbyte b s = .next s := by
  cases hmode : s.run with
  | running => exact absurd hmode hrun
  | stopped => simp only [execRxbyte, hmode]
  | starting => simp only [execRxbyte, hmode]

/-- In `Normal` a byte that is neither `ESC` nor `ETX` is appended, `STX` included (R100, R103). -/
theorem execRxbyte_data (hrun : s.run = .running) (hnormal : s.rxState = .normal) (hesc : b ≠ s.cfg.esc)
    (hetx : b ≠ s.cfg.etx) : execRxbyte b s = .next (append b s) := by
  simp only [execRxbyte, hrun, hnormal, if_neg hesc, if_neg hetx, execRxData]

/-- In `Normal` the byte `ETX` ends the frame (R100, R102). -/
theorem execRxbyte_etx (hrun : s.run = .running) (hnormal : s.rxState = .normal) (hesc : b ≠ s.cfg.esc)
    (hetx : b = s.cfg.etx) : execRxbyte b s = execRxEtx s := by
  simp only [execRxbyte, hrun, hnormal, if_neg hesc, if_pos hetx]

/-- A frame that lost a byte is discarded at its terminator (R51, R102). -/
theorem execRxEtx_of_overflow (hovf : s.rxOvf = true) : execRxEtx s = .next (clearFrame s) := by
  simp only [execRxEtx, hovf, if_true]

/-- The bytes of an exact buffer that lost none are classified at the terminator (R52, R102). -/
theorem execRxEtx_of_exact (hbuf : bufferExact s) (hovf : s.rxOvf = false) :
    execRxEtx s = .next (clearFrame (classify (s.rxBuf.map Prod.snd) s)) := by
  simp only [execRxEtx, hovf, Bool.false_eq_true, if_false, takeFrame_exact hbuf]

theorem hasRoom_of_unbounded {c : Cfg} (hmax : c.maxFrameLen = none) (n : Nat) : hasRoom c n = true := by
  simp only [hasRoom, hmax]

theorem hasRoom_of_full {c : Cfg} {m n : Nat} (hmax : c.maxFrameLen = some m) (hfull : m ≤ n) :
    hasRoom c n = false := by
  simp only [hasRoom, hmax, decide_eq_false_iff_not, Nat.not_lt, hfull]

/-- Settles O9: the lifecycle test comes before the dispatch. -/
theorem rxbyteDroppedOutsideRunning : Obligations.RxbyteDroppedOutsideRunning := by
  intro s b hrun
  exact execRxbyte_of_not_running hrun

/-- Settles O12: below the bound RX.DATA is one store at the old `rx_len`. -/
theorem rxDataAppends : Obligations.RxDataAppends := by
  intro s b hroom
  refine ⟨append b s, rfl, ?_⟩
  rw [append_of_room ((roomLeft_iff s).mp hroom)]
  exact ⟨rfl, Memory.read_write_same _ _ _, fun _ ne => Memory.read_write_other _ _ ne, rfl⟩

/-- Settles O13: below the bound RX.UNESC is one store of the un-stuffed byte, and the end of the escape. -/
theorem rxUnescAppends : Obligations.RxUnescAppends := by
  intro s b hroom
  refine ⟨{ append (xorByte b) s with rxState := .normal }, rfl, ?_⟩
  rw [append_of_room ((roomLeft_iff s).mp hroom)]
  exact ⟨rfl, rfl, Memory.read_write_same _ _ (xorByte b), fun _ ne => Memory.read_write_other _ _ ne, rfl⟩

/-- Settles O14: at the bound an append is its first or a later one, told apart by `rx_ovf`. -/
theorem appendAtTheBound : Obligations.AppendAtTheBound := by
  intro s b m hmax hfull
  have noRoom := hasRoom_of_full hmax hfull
  refine ⟨fun first => ?_, fun again => ?_⟩
  · have drops (v : Byte) := append_of_full_first (v := v) noRoom first
    change execRxData b s = _ ∧ execRxUnesc b s = _
    rw [execRxData, execRxUnesc, drops, drops]
    exact ⟨rfl, rfl⟩
  · have drops (v : Byte) := append_of_full_again (v := v) noRoom again
    change execRxData b s = _ ∧ execRxUnesc b s = _
    rw [execRxData, execRxUnesc, drops, drops]
    exact ⟨rfl, rfl⟩

/-- Settles O15: the hand-off copies an exact buffer whole, and the classifier runs the operation its bytes decode
to; the flag skips both. -/
theorem rxEtxEndsTheFrame : Obligations.RxEtxEndsTheFrame := by
  intro s
  refine ⟨fun hbuf hovf => ?_, fun hovf => execRxEtx_of_overflow hovf⟩
  exact ⟨classify (s.rxBuf.map Prod.snd) s, exec_decodeFrame _ _, execRxEtx_of_exact hbuf hovf⟩

end Sys2Proof.Machine
end

section
/-! The receive decoder over a byte stream (`40_rx_decoder.md` section 3, R105): each step of the machine is a step of
the functional decoder, and a run is its run. -/

namespace Sys2Proof.Machine

variable {s t : State}

/-- The state with another receive state, buffer, index and list of coming events: the fields a stream of bytes
writes besides what the frames it completes write. -/
def receiving (rs : RxState) (m : Memory) (n : Nat) (es : List Event) (s : State) : State :=
  { s with rxState := rs, rxBuf := m, rxLen := n, input := es }

/-- A burst reads and writes none of the receiving fields. -/
theorem frmBurst_receiving (f : List Byte) (rs : RxState) (m : Memory) (n : Nat) (es : List Event) (s : State) :
    frmBurst f (receiving rs m n es s) = receiving rs m n es (frmBurst f s) := by
  simp only [frmBurst, receiving]
  split <;> rfl

/-- A classification reads and writes none of the receiving fields. -/
theorem classify_receiving (f : List Byte) (rs : RxState) (m : Memory) (n : Nat) (es : List Event) (s : State) :
    classify f (receiving rs m n es s) = receiving rs m n es (classify f s) := by
  unfold classify
  split
  · rfl
  · rfl
  · exact frmBurst_receiving f rs m n es s

theorem classifyAll_receiving (fs : List (List Byte)) (rs : RxState) (m : Memory) (n : Nat) (es : List Event)
    (s : State) : classifyAll fs (receiving rs m n es s) = receiving rs m n es (classifyAll fs s) := by
  induction fs generalizing s with
  | nil => rfl
  | cons f fs ih => simp only [classifyAll, classify_receiving, ih]

theorem classifyAll_append (fs gs : List (List Byte)) (s : State) :
    classifyAll (fs ++ gs) s = classifyAll gs (classifyAll fs s) := by
  induction fs generalizing s with
  | nil => rfl
  | cons f fs ih => simp only [List.cons_append, classifyAll, ih]

@[simp] theorem classifyAll_run (fs : List (List Byte)) (s : State) : (classifyAll fs s).run = s.run := by
  induction fs generalizing s with
  | nil => rfl
  | cons f fs ih => simp only [classifyAll, ih, classify_run]

@[simp] theorem classifyAll_cfg (fs : List (List Byte)) (s : State) : (classifyAll fs s).cfg = s.cfg := by
  induction fs generalizing s with
  | nil => rfl
  | cons f fs ih => simp only [classifyAll, ih, classify_cfg]

@[simp] theorem classifyAll_rxOvf (fs : List (List Byte)) (s : State) :
    (classifyAll fs s).rxOvf = s.rxOvf := by
  induction fs generalizing s with
  | nil => rfl
  | cons f fs ih => simp only [classifyAll, ih, classify_rxOvf]

/-- The decoder state of R105 that a machine state stands for. -/
def decoderOf (s : State) : DecoderState := (s.rxState, s.rxBuf.map Prod.snd)

/-- A session that receives without a bound and has lost no byte: what a stream of bytes keeps. -/
structure Streaming (s : State) : Prop where
  run       : s.run = .running
  unbounded : s.cfg.maxFrameLen = none
  intact    : s.rxOvf = false
  cells     : bufferExact s

/-- From `s` the machine has come to `t` as the functional decoder came to `r.1`, completing the frames `r.2`; the
events `rest` are left. -/
structure DecodedTo (r : DecoderState × List (List Byte)) (rest : List Event) (s t : State) : Prop where
  cells   : bufferExact t
  decoder : decoderOf t = r.1
  frame   : t = receiving t.rxState t.rxBuf t.rxLen rest (classifyAll r.2 s)

theorem DecodedTo.streaming {r : DecoderState × List (List Byte)} {rest : List Event} (h : DecodedTo r rest s t)
    (hs : Streaming s) : Streaming t where
  run := by rw [h.frame]; exact (classifyAll_run _ _).trans hs.run
  unbounded := by rw [h.frame]; exact (congrArg Cfg.maxFrameLen (classifyAll_cfg _ _)).trans hs.unbounded
  intact := by rw [h.frame]; exact (classifyAll_rxOvf _ _).trans hs.intact
  cells := h.cells

theorem DecodedTo.cfg {r : DecoderState × List (List Byte)} {rest : List Event} (h : DecodedTo r rest s t) :
    t.cfg = s.cfg := by
  rw [h.frame]
  exact classifyAll_cfg _ _

/-- One decoder stretch after another: the frames of the second are classified after those of the first. -/
theorem DecodedTo.trans {u : State} {d d' : DecoderState} {fs gs : List (List Byte)} {es rest : List Event}
    (first : DecodedTo (d, fs) es s t) (second : DecodedTo (d', gs) rest t u) :
    DecodedTo (d', fs ++ gs) rest s u where
  cells := second.cells
  decoder := second.decoder
  frame := by
    have h := second.frame
    rw [first.frame, classifyAll_receiving] at h
    rw [classifyAll_append]
    exact h

/-- The events of a list of bytes, the first one taken. -/
theorem rxEvents_cons_append (b : Byte) (bs : List Byte) (rest : List Event) :
    rxEvents (b :: bs) ++ rest = .call (.rxbyte b) :: (rxEvents bs ++ rest) := rfl

/-- A byte stored, with the receive state that follows it. -/
theorem append_decodes (hs : Streaming s) (v : Byte) (rs : RxState) :
    DecodedTo ((rs, s.rxBuf.map Prod.snd ++ [v]), []) s.input s { append v s with rxState := rs } := by
  have room := hasRoom_of_unbounded hs.unbounded s.rxLen
  refine ⟨append_bufferExact hs.cells, ?_, ?_⟩
  · rw [decoderOf, append_bytes hs.cells room]
  · rw [append_of_room room]
    rfl

/-- A frame handed off, classified and cleared. -/
theorem clearFrame_decodes (hs : Streaming s) (f : List Byte) :
    DecodedTo ((.normal, []), [f]) s.input s (clearFrame (classify f s)) := by
  refine ⟨rfl, rfl, ?_⟩
  have intact : (classify f s).rxOvf = false := (classify_rxOvf f s).trans hs.intact
  simp only [clearFrame, receiving, classifyAll, ← intact, ← classify_input f s]

/-- A received byte does what a step of the functional decoder does. -/
theorem execRxbyte_decodes (hs : Streaming s) (b : Byte) :
    ∃ t, execRxbyte b s = .next t ∧ DecodedTo (decoderStep s.cfg (decoderOf s) b) s.input s t := by
  match hstate : s.rxState with
  | .escapePending =>
    rw [decoderOf, hstate]
    exact ⟨_, execRxbyte_escapePending hs.run hstate, append_decodes hs (xorByte b) .normal⟩
  | .normal =>
    rw [decoderOf, hstate, decoderStep]
    split_ifs with hesc hetx
    · subst hesc
      exact ⟨_, execRxbyte_esc hs.run hstate, hs.cells, rfl, rfl⟩
    · exact ⟨_, (execRxbyte_etx hs.run hstate hesc hetx).trans (execRxEtx_of_exact hs.cells hs.intact),
        clearFrame_decodes hs _⟩
    · have stays : append b s = { append b s with rxState := .normal } := by
        rw [← (append_rxState b s).trans hstate]
      exact ⟨_, execRxbyte_data hs.run hstate hesc hetx, stays ▸ append_decodes hs b .normal⟩

/-- A step that takes a received byte is a step of the functional decoder. -/
theorem step_decodes {b : Byte} {rest : List Event} (hs : Streaming s)
    (hinput : s.input = .call (.rxbyte b) :: rest) :
    ∃ t, step s = .next t ∧ DecodedTo (decoderStep s.cfg (decoderOf s) b) rest s t := by
  obtain ⟨t, answers, decoded⟩ :=
    execRxbyte_decodes (s := receiving s.rxState s.rxBuf s.rxLen rest s)
      ⟨hs.run, hs.unbounded, hs.intact, hs.cells⟩ b
  refine ⟨t, (step_rxbyte hinput).trans answers, decoded.cells, decoded.decoder, ?_⟩
  have frame := decoded.frame
  rw [classifyAll_receiving] at frame
  exact frame

/-- A run over received bytes is the run of the functional decoder over them. -/
theorem run_decodes {bs : List Byte} {rest : List Event} (hs : Streaming s)
    (hinput : s.input = rxEvents bs ++ rest) :
    ∃ t, Sys2Proof.core.run bs.length s = .next t ∧ DecodedTo (decoderRun s.cfg (decoderOf s) bs) rest s t := by
  induction bs generalizing s with
  | nil =>
    have taken : s.input = rest := hinput
    refine ⟨s, rfl, hs.cells, rfl, ?_⟩
    rw [← taken]
    rfl
  | cons b bs ih =>
    obtain ⟨t, steps, decoded⟩ := step_decodes hs (hinput.trans (rxEvents_cons_append b bs rest))
    have left : t.input = rxEvents bs ++ rest := by rw [decoded.frame]; rfl
    obtain ⟨u, runs, decodedRest⟩ := ih (decoded.streaming hs) left
    rw [decoded.decoder, decoded.cfg] at decodedRest
    exact ⟨u, (core_run_succ bs.length steps).trans runs, decoded.trans decodedRest⟩

/-- Settles O17: by induction over the bytes, each step of the machine being a step of the functional decoder. -/
theorem streamRefinesTheFunctionalDecoder : Obligations.StreamRefinesTheFunctionalDecoder := by
  intro s bs rest hrun hmax hovf hbuf hinput
  obtain ⟨t, runs, decoded⟩ := run_decodes ⟨hrun, hmax, hovf, hbuf⟩ hinput
  exact ⟨t, runs, decoded.cells, decoded.decoder, decoded.frame⟩

end Sys2Proof.Machine
end

section
/-! What a well-formed configuration gives, and the step that runs a decoded operation. -/

namespace Sys2Proof

open Machine

/-- The checks of R5 and D7 by themselves. -/
theorem Cfg.wf_iff (c : Cfg) :
    c.wf = true ↔
      (c.stx ≠ c.etx ∧ c.stx ≠ c.esc ∧ c.etx ≠ c.esc) ∧ (cfgNum c).validF c.adcScale = true ∧
      c.tTickUs < 2 ^ 32 ∧ c.maxFrameLenWf = true ∧ c.rangeMap.wf = true ∧
      ((cfgNum c).validF (rLowDefault c) = true ∧ (cfgNum c).validF (rMidDefault c) = true ∧
        (cfgNum c).validF (rHighDefault c) = true) := by
  simp only [Cfg.wf, Bool.and_eq_true, decide_eq_true_eq, and_assoc]

theorem Cfg.markers_of_wf {c : Cfg} (h : c.wf = true) : c.stx ≠ c.etx ∧ c.stx ≠ c.esc ∧ c.etx ≠ c.esc :=
  (c.wf_iff.mp h).1

theorem Cfg.tick_of_wf {c : Cfg} (h : c.wf = true) : c.tTickUs < 2 ^ 32 := by
  obtain ⟨-, -, tick, -⟩ := c.wf_iff.mp h
  exact tick

theorem Cfg.rangeMap_of_wf {c : Cfg} (h : c.wf = true) : c.rangeMap.wf = true := by
  obtain ⟨-, -, -, -, map, -⟩ := c.wf_iff.mp h
  exact map

theorem Cfg.defaults_of_wf {c : Cfg} (h : c.wf = true) :
    (cfgNum c).validF (rLowDefault c) = true ∧ (cfgNum c).validF (rMidDefault c) = true ∧
      (cfgNum c).validF (rHighDefault c) = true := by
  obtain ⟨-, -, -, -, -, defaults⟩ := c.wf_iff.mp h
  exact defaults

end Sys2Proof

namespace Sys2Proof.Machine

variable {s : State} {e : Event} {rest : List Event}

theorem step_of_decode {i : Instr} (hinput : s.input = e :: rest) (hdecode : decode s.ctx e = .op i) :
    step s = exec i { s with input := rest } := by
  simp only [step, takeEvent, hinput, hdecode]

/-- Settles O1: `step` takes the event, decodes it in the state it found, and runs what it decodes to. -/
theorem stepRunsTheDecodedOperation : Obligations.StepRunsTheDecodedOperation := by
  intro s e rest i hinput hdecode
  exact step_of_decode hinput hdecode

end Sys2Proof.Machine
end

section
/-! Receiving what the encoder sends (`40_rx_decoder.md` section 3, R106): a stuffed body is stored as its payload,
whether the configuration is clean or not, and the terminator hands the payload over. -/

namespace Sys2Proof.Machine

variable {s : State} {p : List Byte} {rest : List Event}

/-- A run is cut after any number of its steps. -/
theorem core_run_add {s t : State} (m n : Nat) (h : Sys2Proof.core.run m s = .next t) :
    Sys2Proof.core.run (m + n) s = Sys2Proof.core.run n t := by
  induction m generalizing s with
  | zero =>
    cases h
    rw [Nat.zero_add]
  | succ m ih =>
    rw [Nat.succ_add]
    cases hstep : step s with
    | next u => rw [core_run_succ _ hstep] at h ⊢; exact ih h
    | fault r => simp only [Host.Core.run, show Sys2Proof.core.step s = .fault r from hstep, reduceCtorEq] at h
    | refused r => simp only [Host.Core.run, show Sys2Proof.core.step s = .refused r from hstep, reduceCtorEq] at h

theorem bufferOf_bytes (l : List Byte) : (bufferOf l).map Prod.snd = l :=
  List.map_snd_zip (by simp)

theorem bufferOf_offsets (l : List Byte) : (bufferOf l).map Prod.fst = List.range l.length :=
  List.map_fst_zip (by simp)

theorem bufferExact_length (h : bufferExact s) : (s.rxBuf.map Prod.snd).length = s.rxLen := by
  simpa using congrArg List.length h

/-- The state after the bytes `p` were stored behind those received, with the events `rest` left. -/
def stored (p : List Byte) (rest : List Event) (s : State) : State :=
  { s with rxBuf := bufferOf (s.rxBuf.map Prod.snd ++ p), rxLen := s.rxLen + p.length, input := rest }

theorem stored_bytes (p : List Byte) (rest : List Event) (s : State) :
    (stored p rest s).rxBuf.map Prod.snd = s.rxBuf.map Prod.snd ++ p :=
  bufferOf_bytes _

theorem stored_exact (h : bufferExact s) : bufferExact (stored p rest s) := by
  have offsets := bufferOf_offsets (s.rxBuf.map Prod.snd ++ p)
  rw [List.length_append, bufferExact_length h] at offsets
  exact offsets

theorem stored_stored (p q : List Byte) (es rest : List Event) (s : State) :
    stored q rest (stored p es s) = stored (p ++ q) rest s := by
  simp only [stored, bufferOf_bytes, List.append_assoc, List.length_append, Nat.add_assoc]

/-- Nothing stored is nothing changed but the events left. -/
theorem stored_nil (h : bufferExact s) : stored [] rest s = { s with input := rest } := by
  simp only [stored, List.append_nil, bufferOf_exact h, List.length_nil, Nat.add_zero]

/-- One append on an exact buffer stores one byte. -/
theorem write_stored {b : Byte} (hbuf : bufferExact s) (room : hasRoom s.cfg s.rxLen = true) :
    { s with rxBuf := s.rxBuf.write s.rxLen b, rxLen := s.rxLen + 1, input := rest } = stored [b] rest s := by
  have offsets := bufferOf_exact (append_bufferExact (v := b) hbuf)
  rw [append_bytes hbuf room, append_of_room room] at offsets
  rw [stored, offsets, List.length_singleton]

/-- What an unbounded session in `Normal` keeps while it receives a stuffed body; a byte lost before does not
matter. -/
structure Receiving (s : State) : Prop where
  run       : s.run = .running
  normal    : s.rxState = .normal
  unbounded : s.cfg.maxFrameLen = none
  cells     : bufferExact s

theorem Receiving.stored (hs : Receiving s) : Receiving (stored p rest s) :=
  ⟨hs.run, hs.normal, hs.unbounded, stored_exact hs.cells⟩

theorem Receiving.room (hs : Receiving s) : hasRoom s.cfg s.rxLen = true :=
  hasRoom_of_unbounded hs.unbounded _

/-- A byte that is neither `ESC` nor `ETX` is stored by the step that takes it. -/
theorem step_literal {b : Byte} (hs : Receiving s) (hesc : b ≠ s.cfg.esc) (hetx : b ≠ s.cfg.etx)
    (hinput : s.input = .call (.rxbyte b) :: rest) : step s = .next (stored [b] rest s) := by
  refine (step_rxbyte hinput).trans ((execRxbyte_data (s := { s with input := rest }) hs.run hs.normal hesc
    hetx).trans ?_)
  rw [append_of_room (s := { s with input := rest }) hs.room, write_stored hs.cells hs.room]

/-- The bytes a payload byte is sent as are received as that byte: a literal is no marker, and un-stuffing undoes
stuffing. -/
theorem run_txByte {x : Byte} (hs : Receiving s) (hinput : s.input = rxEvents (txByte s.cfg x) ++ rest) :
    Sys2Proof.core.run (txByte s.cfg x).length s = .next (stored [x] rest s) := by
  by_cases marker : x = s.cfg.stx ∨ x = s.cfg.etx ∨ x = s.cfg.esc
  · rw [txByte, if_pos marker] at hinput ⊢
    refine (run_escaped hs.run hs.normal hinput).trans ?_
    rw [afterEscaped_of_room hs.normal ((roomLeft_iff s).mpr hs.room), xorByte_xorByte,
      write_stored hs.cells hs.room]
  · rw [txByte, if_neg marker] at hinput ⊢
    obtain ⟨-, hetx, hesc⟩ := by simpa only [not_or] using marker
    exact core_run_succ 0 (step_literal hs hesc hetx hinput)

theorem rxEvents_append (l m : List Byte) : rxEvents (l ++ m) = rxEvents l ++ rxEvents m :=
  List.map_append

/-- The bytes of a stuffed body are received as the payload. -/
theorem run_txBody (hs : Receiving s) (hinput : s.input = rxEvents (txBody s.cfg p) ++ rest) :
    Sys2Proof.core.run (txBody s.cfg p).length s = .next (stored p rest s) := by
  induction p generalizing s with
  | nil =>
    have taken : s.input = rest := hinput
    rw [stored_nil hs.cells, ← taken]
    rfl
  | cons x p ih =>
    rw [txBody, rxEvents_append, List.append_assoc] at hinput
    rw [txBody, List.length_append, core_run_add _ _ (run_txByte hs hinput)]
    refine (ih (s := stored [x] _ s) hs.stored rfl).trans ?_
    rw [stored_stored, List.singleton_append]

/-- Settles O18: by induction over the payload, each byte being received as it was. -/
theorem stuffedBodyIsReceivedExactly : Obligations.StuffedBodyIsReceivedExactly := by
  intro s p rest _ hmax hrun hnormal hbuf hinput
  exact run_txBody ⟨hrun, hnormal, hmax, hbuf⟩ hinput

/-- The terminator hands over the bytes received before the body and the payload. -/
theorem run_rxframe {l : List Byte} (hwf : s.cfg.wf = true) (hs : Receiving s) (hovf : s.rxOvf = false)
    (hbytes : s.rxBuf.map Prod.snd = l) (hinput : s.input = rxframe s.cfg p ++ rest) :
    Sys2Proof.core.run (rxframe s.cfg p).length s = .next (clearFrame (classify (l ++ p) (stored p rest s))) := by
  obtain ⟨-, -, hmarkers⟩ := Cfg.markers_of_wf hwf
  rw [rxframe, rxEvents_append, List.append_assoc] at hinput
  have length : (rxframe s.cfg p).length = (txBody s.cfg p).length + 1 := by simp [rxframe, rxEvents]
  have ends : step (stored p (rxEvents [s.cfg.etx] ++ rest) s)
      = .next (clearFrame (classify (l ++ p) (stored p rest s))) := by
    refine (step_rxbyte rfl).trans
      ((execRxbyte_etx (s := stored p rest s) hs.run hs.normal hmarkers rfl).trans ?_)
    rw [execRxEtx_of_exact (s := stored p rest s) (stored_exact hs.cells) hovf, stored_bytes, hbytes]
  rw [length, core_run_add _ _ (run_txBody hs hinput)]
  exact core_run_succ 0 ends

/-- After a frame that found the buffer empty, the clear leaves what the classification leaves of the state before
the frame. -/
theorem clearFrame_classify_receiving (f : List Byte) (rs : RxState) (m : Memory) (n : Nat)
    (hnormal : s.rxState = .normal) (hbuf : s.rxBuf = []) (hlen : s.rxLen = 0) (hovf : s.rxOvf = false) :
    clearFrame (classify f (receiving rs m n rest s)) = classify f { s with input := rest } := by
  have before := classify_receiving f s.rxState s.rxBuf s.rxLen rest s
  have intact : (classify f s).rxOvf = false := (classify_rxOvf f s).trans hovf
  rw [show ({ s with input := rest } : State) = receiving s.rxState s.rxBuf s.rxLen rest s from rfl, before,
    classify_receiving, hnormal, hbuf, hlen]
  simp only [clearFrame, receiving, ← intact]

/-- An empty buffer is exact. -/
theorem bufferExact_of_empty (hbuf : s.rxBuf = []) (hlen : s.rxLen = 0) : bufferExact s := by
  rw [bufferExact, hbuf, hlen]
  rfl

/-- Settles O19: from an empty buffer the terminator hands over the payload alone, and the clear after it finds the
buffer as it was. -/
theorem framedPayloadIsOneFrame : Obligations.FramedPayloadIsOneFrame := by
  intro s p rest hwf hmax hrun hnormal hbuf hlen hovf hinput
  refine ⟨classify p { s with input := rest }, exec_decodeFrame _ _, ?_⟩
  exact (run_rxframe hwf ⟨hrun, hnormal, hmax, bufferExact_of_empty hbuf hlen⟩ hovf (congrArg _ hbuf) hinput).trans
    (congrArg Host.Outcome.next (clearFrame_classify_receiving p _ _ _ hnormal hbuf hlen hovf))

/-- An encoded frame taken as received bytes: `STX` is stored as data, so the frame that the terminator ends is the
payload behind it (D2). -/
theorem run_encodeFrame (hwf : s.cfg.wf = true) (hs : Receiving s) (hbuf : s.rxBuf = []) (hlen : s.rxLen = 0)
    (hovf : s.rxOvf = false) (hinput : s.input = rxEvents (encodeFrame s.cfg p) ++ rest) :
    Sys2Proof.core.run (encodeFrame s.cfg p).length s
      = .next (classify (s.cfg.stx :: p) { s with input := rest }) := by
  obtain ⟨hetx, hesc, -⟩ := Cfg.markers_of_wf hwf
  have stx : step s = .next (stored [s.cfg.stx] (rxframe s.cfg p ++ rest) s) := step_literal hs hesc hetx hinput
  have received : (stored [s.cfg.stx] (rxframe s.cfg p ++ rest) s).rxBuf.map Prod.snd = [s.cfg.stx] := by
    rw [stored_bytes, hbuf]
    rfl
  have frame := run_rxframe (s := stored [s.cfg.stx] (rxframe s.cfg p ++ rest) s) hwf hs.stored hovf received rfl
  have length : (encodeFrame s.cfg p).length = (rxframe s.cfg p).length + 1 := by
    simp [rxframe, rxEvents, encodeFrame]
  rw [length, core_run_succ _ stx]
  exact frame.trans (congrArg Host.Outcome.next
    (clearFrame_classify_receiving (s.cfg.stx :: p) _ _ _ hs.normal hbuf hlen hovf))

/-- What a SEND of `p` to a sink that accepts it leaves. -/
def sentOk (p : List Byte) (s : State) : State := giveResult .sendOk (txFrame p s)

/-- SEND of bytes to a sink that accepts them records the send and its answer (R186). -/
theorem execSend_ok (p : List Byte) (hrun : s.run = .running) : execSend (some p) .ok s = .next (sentOk p s) := by
  simp only [execSend, hrun, sentOk]

/-- Settles O20: the send leaves the receiver as it was, and the frame it sent is then received. -/
theorem loopBackPrependsStx : Obligations.LoopBackPrependsStx := by
  intro s p rest hwf hmax hrun hnormal hbuf hlen hovf hinput
  have sends : step s = .next (sentOk p { s with input := rxEvents (encodeFrame s.cfg p) ++ rest }) :=
    (step_of_decode hinput rfl).trans
      (execSend_ok (s := { s with input := rxEvents (encodeFrame s.cfg p) ++ rest }) p hrun)
  have length : (loopback s.cfg p).length = (encodeFrame s.cfg p).length + 1 := by simp [loopback, rxEvents]
  refine ⟨classify (s.cfg.stx :: p) (sentOk p { s with input := rest }), exec_decodeFrame _ _, ?_⟩
  rw [length, core_run_succ _ sends]
  exact run_encodeFrame (s := sentOk p { s with input := rxEvents (encodeFrame s.cfg p) ++ rest }) hwf
    ⟨hrun, hnormal, hmax, bufferExact_of_empty hbuf hlen⟩ hbuf hlen hovf rfl

end Sys2Proof.Machine
end

section
/-! The two fields of a sample word (`43_range_scaler.md` sections 1 and 5) and the little-endian reads of a frame
(`20_memory.md` section 2). -/

namespace Sys2Proof.Machine

theorem rangeBits_eq (w : Word16) : rangeBits w = w.extractLsb' 14 2 := by
  apply BitVec.eq_of_getLsbD_eq
  intro j hj
  obtain rfl | rfl : j = 0 ∨ j = 1 := by omega
  all_goals simp [rangeBits, Config.rangeMask, Config.rangePos]

theorem codeOf_eq (w : Word16) : codeOf w = w.extractLsb' 0 14 := by
  apply BitVec.eq_of_toNat_eq
  have mask (n : Nat) : n &&& 16383 = n % 2 ^ 14 := Nat.and_two_pow_sub_one_eq_mod n 14
  simp [codeOf, Config.adcMask, mask]

theorem rangeBits_toNat (w : Word16) : (rangeBits w).toNat = w.toNat / 2 ^ 14 := by
  rw [rangeBits_eq, BitVec.extractLsb'_toNat, Nat.shiftRight_eq_div_pow]
  omega

theorem codeOf_toNat (w : Word16) : (codeOf w).toNat = w.toNat % 2 ^ 14 := by
  rw [codeOf_eq, BitVec.extractLsb'_toNat, Nat.shiftRight_zero]

theorem joinWord_toNat (r : RangeBits) (k : Code) : (joinWord r k).toNat = r.toNat * 2 ^ 14 + k.toNat := by
  rw [joinWord, BitVec.toNat_append, ← Nat.shiftLeft_add_eq_or_of_lt k.isLt, Nat.shiftLeft_eq]

/-- A word is carried by its two fields. -/
theorem joinWord_fields (w : Word16) : joinWord (rangeBits w) (codeOf w) = w := by
  apply BitVec.eq_of_toNat_eq
  rw [joinWord_toNat, rangeBits_toNat, codeOf_toNat]
  omega

/-- The range the decoder reads is `RANGE_MAP` at the number of the field (R161). -/
theorem wordRange_eq_rangeOf (c : Cfg) (w : Word16) : wordRange c.rangeMap w = rangeOf c w := by
  rw [wordRange, rangeOf, ← rangeBits_toNat]
  have four : ∀ r : RangeBits, r = 0#2 ∨ r = 1#2 ∨ r = 2#2 ∨ r = 3#2 := by decide
  rcases four (rangeBits w) with h | h | h | h <;> rw [h] <;> rfl

/-- Settles O32: the fields are quotient and remainder by `2 ^ 14`, and the quotient is what `RANGE_MAP` is read at. -/
theorem wordFieldsPartitionTheWord : Obligations.WordFieldsPartitionTheWord := by
  intro w
  refine ⟨⟨?_, rangeBits_eq w, codeOf_eq w⟩, ?_, fun m hm => wordRange_ne_invalid hm w⟩
  · rw [rangeBits_toNat, codeOf_toNat]
    omega
  · have numbered : wordRange Config.rangeMapDefault w = rangeOf Config.cfgEx w :=
      wordRange_eq_rangeOf Config.cfgEx w
    have quotient {q : Nat} (low : q * 2 ^ 14 ≤ w.toNat) (high : w.toNat < (q + 1) * 2 ^ 14) :
        w.toNat / 2 ^ 14 = q := Nat.div_eq_of_lt_le low high
    rw [numbered, rangeOf]
    refine ⟨fun high => ?_, fun low high => ?_, fun low high => ?_, fun low => ?_⟩
    · rw [quotient (q := 0) (Nat.zero_le _) high]; rfl
    · rw [quotient (q := 1) low high]; rfl
    · rw [quotient (q := 2) low high]; rfl
    · rw [quotient (q := 3) low w.isLt]; rfl

theorem le32_toNat (b0 b1 b2 b3 : Byte) :
    (le32 b0 b1 b2 b3).toNat = b0.toNat + 2 ^ 8 * b1.toNat + 2 ^ 16 * b2.toNat + 2 ^ 24 * b3.toNat := by
  have low : (b1 ++ b0).toNat = b0.toNat + 256 * b1.toNat := le16_toNat b0 b1
  have high : (b3 ++ b2).toNat = b2.toNat + 256 * b3.toNat := le16_toNat b2 b3
  rw [le32, BitVec.toNat_append, ← Nat.shiftLeft_add_eq_or_of_lt (b1 ++ b0).isLt, Nat.shiftLeft_eq, low, high]
  omega

/-- A 16-bit read that has a value read two bytes, the first the less significant. -/
theorem memRead16_some {f : List Byte} {a : Nat} {w : Word16} (h : memRead16 f a = some w) :
    ∃ b0 b1, f[a]? = some b0 ∧ f[a + 1]? = some b1 ∧ w = le16 b0 b1 := by
  unfold memRead16 at h
  split at h
  next b0 b1 low high => exact ⟨b0, b1, low, high, (Option.some.inj h).symm⟩
  next => cases h

/-- Settles O6: the decoder assembles `le32` of the first four bytes, and word `i` of a burst is `le16` at `2 i`. -/
theorem framesReadLittleEndian : Obligations.FramesReadLittleEndian := by
  refine ⟨fun b0 b1 b2 b3 => ⟨_, rfl, le32_toNat b0 b1 b2 b3⟩,
    fun b0 b1 b2 b3 x => ⟨_, rfl, le32_toNat b0 b1 b2 b3⟩, frameWords_length, ?_⟩
  intro f i w hw
  rw [frameWords_getElem?] at hw
  obtain ⟨b0, b1, low, high, rfl⟩ := memRead16_some hw
  exact ⟨b0, b1, low, high, le16_toNat b0 b1⟩

end Sys2Proof.Machine
end

section
/-! Decoding and encoding (`30_encoding.md` R70 to R82): they undo each other, and a datum of another width than its
port's is the one event that is rejected. -/

namespace Sys2Proof

open Machine

variable {x : Ctx}

theorem decode_datum (hrun : x.run = .running) (port : Port) (bytes : List Byte) :
    decode x (.datum port bytes) = decodeDatum x port bytes := by
  simp only [decode, hrun]

theorem decode_datum_of_not_running (hrun : x.run ≠ .running) (port : Port) (bytes : List Byte) :
    decode x (.datum port bytes) = .notSelected := by
  cases hmode : x.run with
  | running => exact absurd hmode hrun
  | stopped => simp only [decode, hmode]
  | starting => simp only [decode, hmode]

/-! ### The payload byte and the sample word -/

theorem decodeTxb_stx (c : Cfg) : decodeTxb c c.stx = .txStuffStx := if_pos rfl

theorem decodeTxb_etx {c : Cfg} (h : c.stx ≠ c.etx) : decodeTxb c c.etx = .txStuffEtx := by
  rw [decodeTxb, if_neg h.symm, if_pos rfl]

theorem decodeTxb_esc {c : Cfg} (hstx : c.stx ≠ c.esc) (hetx : c.etx ≠ c.esc) :
    decodeTxb c c.esc = .txStuffEsc := by
  rw [decodeTxb, if_neg hstx.symm, if_neg hetx.symm, if_pos rfl]

theorem isMarker_iff (c : Cfg) (p : Byte) : c.isMarker p = true ↔ p = c.stx ∨ p = c.etx ∨ p = c.esc := by
  simp only [Cfg.isMarker, Bool.or_eq_true, decide_eq_true_eq, or_assoc]

theorem decodeTxb_lit {c : Cfg} {p : Byte} (h : c.isMarker p = false) : decodeTxb c p = .txLit p := by
  have literal : ¬ (p = c.stx ∨ p = c.etx ∨ p = c.esc) := by rw [← isMarker_iff, h]; exact Bool.false_ne_true
  obtain ⟨hstx, hetx, hesc⟩ := by simpa only [not_or] using literal
  rw [decodeTxb, if_neg hstx, if_neg hetx, if_neg hesc]

theorem decodeDatum_bytesOf16 (w : Word16) : decodeDatum x .word (bytesOf16 w) = decodeWord x.cfg w := by
  simp only [bytesOf16, decodeDatum, le16_bytesOf16]

/-- A word that carries a range is read back as that range. -/
theorem wordRange_joinWord {m : RangeMap} {r : MeasurementRange} (hm : m.wf = true) (hr : r ≠ .invalid)
    (k : Code) : wordRange m (joinWord (rangeField m r) k) = r := by
  rw [wordRange, rangeBits_joinWord, rangeMap_rangeField hm hr]

/-- Settles O4: in each format the encoder writes the bits that the decoder selects the operation by. -/
theorem decodeInvertsEncode : Obligations.DecodeInvertsEncode := by
  intro x i hwf hi hsel
  obtain ⟨stx_etx, stx_esc, etx_esc⟩ := Cfg.markers_of_wf hwf
  have word (r : MeasurementRange) (hr : r ≠ .invalid) (k : Code) :=
    wordRange_joinWord (Cfg.rangeMap_of_wf hwf) hr k
  cases i with
  | reset | start | openDone | stop | send | setcal | rxbyte | transportFail => rfl
  | rxEsc =>
    obtain ⟨hrun, hnormal⟩ := by simpa [Instr.selectedIn] using hsel
    rw [encode, decode_datum hrun, decodeDatum, decodeRxb_esc hnormal rfl]
  | rxEtx =>
    obtain ⟨hrun, hnormal⟩ := by simpa [Instr.selectedIn] using hsel
    rw [encode, decode_datum hrun, decodeDatum, decodeRxb_etx hnormal etx_esc rfl]
  | rxData b =>
    obtain ⟨hrun, hnormal⟩ := by simpa [Instr.selectedIn] using hsel
    obtain ⟨hesc, hetx⟩ := by simpa [Instr.wf] using hi
    rw [encode, decode_datum hrun, decodeDatum, decodeRxb_data hnormal hesc hetx]
  | rxUnesc b =>
    obtain ⟨hrun, hpending⟩ := by simpa [Instr.selectedIn] using hsel
    rw [encode, decode_datum hrun, decodeDatum, decodeRxb_unesc hpending]
  | txStuffStx => rw [encode, decode_datum (of_decide_eq_true hsel), decodeDatum, decodeTxb_stx]
  | txStuffEtx => rw [encode, decode_datum (of_decide_eq_true hsel), decodeDatum, decodeTxb_etx stx_etx]
  | txStuffEsc => rw [encode, decode_datum (of_decide_eq_true hsel), decodeDatum, decodeTxb_esc stx_esc etx_esc]
  | txLit p =>
    have literal : x.cfg.isMarker p = false := by simpa [Instr.wf] using hi
    rw [encode, decode_datum (of_decide_eq_true hsel), decodeDatum, decodeTxb_lit literal]
  | txFrame p o => rw [encode, decode_datum (of_decide_eq_true hsel), decodeDatum]
  | frmAvg v =>
    rw [encode, decode_datum (of_decide_eq_true hsel), decodeDatum, bytesOf32, decodeFrame, le32_bytesOf32]
  | frmTick k b =>
    rw [encode, decode_datum (of_decide_eq_true hsel), decodeDatum, bytesOf32]
    simp only [List.cons_append, List.nil_append, decodeFrame, le32_bytesOf32]
  | frmBurst f =>
    obtain ⟨h4, h5⟩ := by simpa [Instr.wf] using hi
    rw [encode, decode_datum (of_decide_eq_true hsel), decodeDatum, decodeFrame_of_other_length h4 h5]
  | wNone k =>
    simp only [encode, decode_datum (of_decide_eq_true hsel), decodeDatum_bytesOf16, decodeWord,
      word .none nofun, codeOf_joinWord]
  | wLow k =>
    simp only [encode, decode_datum (of_decide_eq_true hsel), decodeDatum_bytesOf16, decodeWord,
      word .low nofun, codeOf_joinWord]
  | wMid k =>
    simp only [encode, decode_datum (of_decide_eq_true hsel), decodeDatum_bytesOf16, decodeWord,
      word .mid nofun, codeOf_joinWord]
  | wHigh k =>
    simp only [encode, decode_datum (of_decide_eq_true hsel), decodeDatum_bytesOf16, decodeWord,
      word .high nofun, codeOf_joinWord]

/-! ### From the event to the operation and back -/

/-- The operation is well-formed, selected, and carried by this very event; for a sample word the last under a
`RANGE_MAP` that names each range once (log 14). -/
structure CarriedBy (x : Ctx) (e : Event) (i : Instr) : Prop where
  wf       : i.wf x.cfg = true
  selected : i.selectedIn x = true
  encoded  : i.format ≠ .w16 ∨ x.cfg.rangeMap.wf = true → encode x.cfg i = e

theorem decodeCall_carried (x : Ctx) (c : Call) : CarriedBy x (.call c) (decodeCall c) := by
  cases c <;> exact ⟨rfl, rfl, fun _ => rfl⟩

theorem decodeRxb_carried (hrun : x.run = .running) (b : Byte) :
    CarriedBy x (.datum .rx [b]) (decodeRxb x b) := by
  cases hstate : x.rxState with
  | escapePending =>
    rw [decodeRxb_unesc hstate]
    exact ⟨rfl, by simp [Instr.selectedIn, hrun, hstate], fun _ => rfl⟩
  | normal =>
    by_cases hesc : b = x.cfg.esc
    · rw [decodeRxb_esc hstate hesc, hesc]
      exact ⟨rfl, by simp [Instr.selectedIn, hrun, hstate], fun _ => rfl⟩
    · by_cases hetx : b = x.cfg.etx
      · rw [decodeRxb_etx hstate hesc hetx, hetx]
        exact ⟨rfl, by simp [Instr.selectedIn, hrun, hstate], fun _ => rfl⟩
      · rw [decodeRxb_data hstate hesc hetx]
        exact ⟨by simp [Instr.wf, hesc, hetx], by simp [Instr.selectedIn, hrun, hstate], fun _ => rfl⟩

theorem decodeTxb_carried (hrun : x.run = .running) (p : Byte) :
    CarriedBy x (.datum .payload [p]) (decodeTxb x.cfg p) := by
  have selected : decide (x.run = .running) = true := decide_eq_true hrun
  unfold decodeTxb
  split_ifs with hstx hetx hesc
  · exact ⟨rfl, selected, fun _ => by rw [encode, hstx]⟩
  · exact ⟨rfl, selected, fun _ => by rw [encode, hetx]⟩
  · exact ⟨rfl, selected, fun _ => by rw [encode, hesc]⟩
  · exact ⟨by simp [Instr.wf, Cfg.isMarker, hstx, hetx, hesc], selected, fun _ => rfl⟩

theorem decodeFrame_carried (hrun : x.run = .running) (f : List Byte) :
    CarriedBy x (.datum .frame f) (decodeFrame f) := by
  have selected : decide (x.run = .running) = true := decide_eq_true hrun
  by_cases h4 : f.length = 4
  · obtain ⟨b0, b1, b2, b3, rfl⟩ := List.length_eq_four.mp h4
    exact ⟨rfl, selected, fun _ => by rw [decodeFrame, encode, bytesOf32_le32]⟩
  · by_cases h5 : f.length = 5
    · obtain ⟨b0, rest, rfl⟩ := List.exists_of_length_succ f h5
      obtain ⟨b1, b2, b3, y, rfl⟩ := List.length_eq_four.mp (Nat.succ.inj h5)
      exact ⟨rfl, selected, fun _ => by rw [decodeFrame, encode, bytesOf32_le32]; rfl⟩
    · rw [decodeFrame_of_other_length h4 h5]
      exact ⟨by simp [Instr.wf, h4, h5], selected, fun _ => rfl⟩

/-- Under a `RANGE_MAP` that names each range once, the two bytes of a word are those of its range and code. -/
theorem bytesOf16_of_range {m : RangeMap} {r : MeasurementRange} {b0 b1 : Byte} (hm : m.wf = true)
    (hr : wordRange m (le16 b0 b1) = r) :
    bytesOf16 (joinWord (rangeField m r) (codeOf (le16 b0 b1))) = [b0, b1] := by
  rw [← hr, wordRange, rangeField_rangeMap hm, joinWord_fields, bytesOf16_le16]

theorem decodeWord_carried (hrun : x.run = .running) {b0 b1 : Byte} {i : Instr}
    (h : decodeWord x.cfg (le16 b0 b1) = .op i) : CarriedBy x (.datum .word [b0, b1]) i := by
  have selected : decide (x.run = .running) = true := decide_eq_true hrun
  unfold decodeWord at h
  split at h
  case h_5 => cases h
  all_goals
    next range =>
      cases h
      refine ⟨rfl, selected, fun hm => ?_⟩
      have hm : x.cfg.rangeMap.wf = true := hm.resolve_left fun other => other rfl
      rw [encode, bytesOf16_of_range hm range]

theorem decodeDatum_carried (hrun : x.run = .running) {port : Port} {bytes : List Byte} {i : Instr}
    (h : decodeDatum x port bytes = .op i) : CarriedBy x (.datum port bytes) i := by
  unfold decodeDatum at h
  split at h
  next b => cases h; exact decodeRxb_carried hrun b
  next => cases h
  next p => cases h; exact decodeTxb_carried hrun p
  next => cases h
  next o p => cases h; exact ⟨rfl, decide_eq_true hrun, fun _ => rfl⟩
  next => cases h; exact decodeFrame_carried hrun bytes
  next => exact decodeWord_carried hrun h
  next => cases h

theorem carried_of_decode {e : Event} {i : Instr} (h : decode x e = .op i) : CarriedBy x e i := by
  cases e with
  | call c =>
    cases h
    exact decodeCall_carried x c
  | datum port bytes =>
    by_cases hrun : x.run = .running
    · rw [decode_datum hrun] at h
      exact decodeDatum_carried hrun h
    · rw [decode_datum_of_not_running hrun] at h
      cases h

/-- Settles O5: port by port, the operation decoded is carried by the event. -/
theorem encodeInvertsDecode : Obligations.EncodeInvertsDecode := by
  intro x e i h
  obtain ⟨wf, selected, encoded⟩ := carried_of_decode h
  exact ⟨wf, selected, encoded⟩

/-! ### The width of a datum -/

theorem decodeWord_ne_datumWidth (c : Cfg) (w : Word16) : decodeWord c w ≠ .datumWidth := by
  unfold decodeWord
  split <;> exact nofun

/-- While `Running` the wrong width is what a datum is rejected for, and nothing else is. -/
theorem decodeDatum_eq_datumWidth_iff (x : Ctx) (port : Port) (bytes : List Byte) :
    decodeDatum x port bytes = .datumWidth ↔ rightWidth (.datum port bytes) = false := by
  match port, bytes with
  | .rx, [] | .rx, _ :: _ :: _ | .payload, [] | .payload, _ :: _ :: _ => simp [decodeDatum, rightWidth]
  | .rx, [_] | .payload, [_] | .command _, _ | .frame, _ => simp [decodeDatum, rightWidth]
  | .word, [] | .word, [_] | .word, _ :: _ :: _ :: _ => simp [decodeDatum, rightWidth]
  | .word, [b0, b1] => simp [decodeDatum, rightWidth, decodeWord_ne_datumWidth]

theorem decode_eq_datumWidth_iff (x : Ctx) (e : Event) :
    decode x e = .datumWidth ↔ x.run = .running ∧ rightWidth e = false := by
  cases e with
  | call c => simp [decode, rightWidth]
  | datum port bytes =>
    by_cases hrun : x.run = .running
    · rw [decode_datum hrun, decodeDatum_eq_datumWidth_iff, and_iff_right hrun]
    · simp [decode_datum_of_not_running hrun, hrun]

/-- Settles O2: the three cases of `step` in which no operation runs. -/
theorem stepWithoutAnOperation : Obligations.StepWithoutAnOperation := by
  refine ⟨fun s idle => ?_, fun s port bytes rest hinput hrun => ?_, fun s e rest hinput hrun width => ?_⟩
  · simp only [step, takeEvent, idle]
  · simp only [step, takeEvent, hinput, decode_datum_of_not_running (x := s.ctx) hrun]
  · simp only [step, takeEvent, hinput, (decode_eq_datumWidth_iff s.ctx e).mpr ⟨hrun, width⟩]

/-- Settles O3: six closed words, decoded by evaluation. -/
theorem writtenWordsDecode : Obligations.WrittenWordsDecode := by
  refine ⟨?_, ?_, ?_, ?_, ?_, ?_⟩ <;> decide

end Sys2Proof
end

section
/-! The transmit encoder (`41_tx_encoder.md`): a body byte by byte, what a clean body holds, and the receive decoder as
its inverse. -/

namespace Sys2Proof.Machine

variable {c : Cfg}

theorem txByte_of_marker {x : Byte} (h : c.isMarker x = true) : txByte c x = [c.esc, xorByte x] :=
  if_pos ((isMarker_iff c x).mp h)

theorem txByte_of_literal {x : Byte} (h : c.isMarker x = false) : txByte c x = [x] :=
  if_neg fun marker => Bool.false_ne_true (h.symm.trans ((isMarker_iff c x).mpr marker))

theorem txBody_eq_flatMap (c : Cfg) (p : List Byte) : txBody c p = p.flatMap (txByte c) := by
  induction p with
  | nil => rfl
  | cons x p ih => rw [txBody, ih, List.flatMap_cons]

/-- Settles O21: TX.STUFF has its marker and TX.LIT its operand in the bytes handed back. -/
theorem txBytesAreStuffedOrLiteral : Obligations.TxBytesAreStuffedOrLiteral := by
  intro s p
  exact ⟨rfl, rfl, rfl, rfl⟩

/-- Settles O22: the one send carries the encoded frame, whose body is `tx_byte` of each payload byte in order. -/
theorem txFrameSendsTheFrame : Obligations.TxFrameSendsTheFrame := by
  intro s p o
  change Host.Outcome.next (handBack (.sink o) (transmit (.send ([s.cfg.stx] ++ txBody s.cfg p ++ [s.cfg.etx])) s)) = _
  rw [txBody_eq_flatMap]
  rfl

/-- The body has one byte more for each reserved byte (R125). -/
theorem txBody_length (c : Cfg) (p : List Byte) : (txBody c p).length = p.length + markerCount c p := by
  induction p with
  | nil => rfl
  | cons x p ih =>
    rw [txBody, List.length_append, ih, List.length_cons, markerCount, markerCount, List.countP_cons]
    cases h : c.isMarker x with
    | true => rw [txByte_of_marker h]; simp only [List.length_cons, List.length_nil, if_true]; omega
    | false => rw [txByte_of_literal h]; simp only [List.length_singleton, Bool.false_eq_true, if_false]; omega

/-- Settles O23: the two markers at the ends are outside the body. -/
theorem encodedLength : Obligations.EncodedLength := by
  intro c p
  have reserved : (fun x => decide (x = c.stx ∨ x = c.etx ∨ x = c.esc)) = c.isMarker := by
    funext x
    rw [Bool.eq_iff_iff, isMarker_iff, decide_eq_true_eq]
  refine ⟨?_, rfl, List.getLast?_concat⟩
  rw [reserved, encodeFrame, List.length_append, List.length_append, txBody_length, markerCount]
  simp only [List.length_singleton]
  omega

/-- Under a clean configuration no marker is stuffed to a marker (R126). -/
theorem xorByte_of_clean (hclean : cleanCfg c = true) {x : Byte} (h : c.isMarker x = true) :
    c.isMarker (xorByte x) = false := by
  simp only [cleanCfg, Bool.and_eq_true, Bool.not_eq_true'] at hclean
  obtain ⟨⟨stx, etx⟩, esc⟩ := hclean
  rcases (isMarker_iff c x).mp h with rfl | rfl | rfl
  · exact stx
  · exact etx
  · exact esc

/-- The one marker a clean body holds is `ESC`. -/
theorem eq_esc_of_mem_txByte (hclean : cleanCfg c = true) {x y : Byte} (hy : c.isMarker y = true)
    (hmem : y ∈ txByte c x) : y = c.esc := by
  cases h : c.isMarker x with
  | true =>
    rw [txByte_of_marker h, List.mem_pair] at hmem
    refine hmem.resolve_right fun stuffed => ?_
    rw [stuffed, xorByte_of_clean hclean h] at hy
    cases hy
  | false =>
    rw [txByte_of_literal h, List.mem_singleton] at hmem
    rw [hmem, h] at hy
    cases hy

theorem eq_esc_of_mem_txBody (hclean : cleanCfg c = true) {p : List Byte} {y : Byte} (hy : c.isMarker y = true)
    (hmem : y ∈ txBody c p) : y = c.esc := by
  rw [txBody_eq_flatMap, List.mem_flatMap] at hmem
  obtain ⟨x, -, hx⟩ := hmem
  exact eq_esc_of_mem_txByte hclean hy hx

theorem isMarker_esc (c : Cfg) : c.isMarker c.esc = true := (isMarker_iff c _).mpr (.inr (.inr rfl))

/-- A clean body holds one `ESC` for each reserved byte. -/
theorem count_esc_txBody (hclean : cleanCfg c = true) (p : List Byte) :
    (txBody c p).count c.esc = markerCount c p := by
  induction p with
  | nil => rfl
  | cons x p ih =>
    rw [txBody, List.count_append, ih, markerCount, markerCount, List.countP_cons]
    cases h : c.isMarker x with
    | true =>
      have stuffed : xorByte x ≠ c.esc := fun e => by
        have unmarked := xorByte_of_clean hclean h
        rw [e, isMarker_esc] at unmarked
        cases unmarked
      rw [txByte_of_marker h, List.count_cons_self, List.count_singleton, if_neg (by simpa using stuffed)]
      simp only [if_true]
      omega
    | false =>
      have literal : x ≠ c.esc := fun e => by
        rw [e, isMarker_esc] at h
        cases h
      rw [txByte_of_literal h, List.count_singleton, if_neg (by simpa using literal)]
      simp only [Bool.false_eq_true, if_false]
      omega

/-- Settles O24: a marker in a clean body is `ESC`, which is neither `STX` nor `ETX`. -/
theorem cleanBodyHasNoMarker : Obligations.CleanBodyHasNoMarker := by
  intro c p hwf hclean
  obtain ⟨-, stx_esc, etx_esc⟩ := Cfg.markers_of_wf hwf
  have stx : c.isMarker c.stx = true := (isMarker_iff c _).mpr (.inl rfl)
  have etx : c.isMarker c.etx = true := (isMarker_iff c _).mpr (.inr (.inl rfl))
  exact ⟨fun mem => stx_esc (eq_esc_of_mem_txBody hclean stx mem),
    fun mem => etx_esc (eq_esc_of_mem_txBody hclean etx mem), count_esc_txBody hclean p⟩

/-- The functional decoder takes the bytes of one payload byte back to that byte. -/
theorem decoderRun_txByte (c : Cfg) (l : List Byte) (x : Byte) (bs : List Byte) :
    decoderRun c (.normal, l) (txByte c x ++ bs) = decoderRun c (.normal, l ++ [x]) bs := by
  cases h : c.isMarker x with
  | true =>
    rw [txByte_of_marker h]
    simp [decoderRun, decoderStep]
  | false =>
    rw [txByte_of_literal h]
    obtain ⟨-, hetx, hesc⟩ : x ≠ c.stx ∧ x ≠ c.etx ∧ x ≠ c.esc := by
      simpa only [h, Bool.false_eq_true, false_iff, not_or] using isMarker_iff c x
    simp [decoderRun, decoderStep, hesc, hetx]

/-- The functional decoder takes a stuffed body back to its payload. -/
theorem decoderRun_txBody (c : Cfg) (l p : List Byte) :
    decoderRun c (.normal, l) (txBody c p) = ((.normal, l ++ p), []) := by
  induction p generalizing l with
  | nil => rw [List.append_nil]; rfl
  | cons x p ih => rw [txBody, decoderRun_txByte, ih, List.append_assoc, List.singleton_append]

/-- Settles O25: the payload is what the functional decoder gives for the body between the two markers. -/
theorem encodingIsInjective : Obligations.EncodingIsInjective := by
  intro c p q _ same
  have body : txBody c p = txBody c q :=
    List.append_cancel_left (List.append_cancel_right same)
  have decoded := decoderRun_txBody c [] p
  rw [body, decoderRun_txBody] at decoded
  exact (congrArg (fun r => r.1.2) decoded).symm

end Sys2Proof.Machine
end

section
/-! The frame classifier and the sample words (`42_frame_classifier.md`, `43_range_scaler.md` section 2). -/

namespace Sys2Proof.Machine

variable {s : State}

/-- Advancing `ts` is the 64-bit sum (R145, D10). -/
theorem tsPlus_eq (ts : Word64) (n : Nat) : tsPlus ts n = ts + BitVec.ofNat 64 n := by
  rw [tsPlus, BitVec.ofNat_add, BitVec.ofNat_toNat, BitVec.setWidth_eq]

/-- Settles O26: the event carries the old `ts`, and the advance is modulo 2^64. -/
theorem frmAvgEmitsAndAdvances : Obligations.FrmAvgEmitsAndAdvances := by
  intro s v
  rw [← tsPlus_eq]
  rfl

/-- Settles O27: two factors below 2^32 have a product below 2^64, so nothing of it is lost. -/
theorem frmTickReplacesTs : Obligations.FrmTickReplacesTs := by
  intro s ticks x hwf
  refine ⟨frmTick ticks s, rfl, ?_, rfl⟩
  have fits : ticks.toNat * s.cfg.tTickUs < 2 ^ 32 * 2 ^ 32 :=
    Nat.mul_lt_mul'' ticks.isLt (Cfg.tick_of_wf hwf)
  rw [frmTick_ts, BitVec.toNat_ofNat]
  exact Nat.mod_eq_of_lt fits

/-! ### The burst -/

theorem convertWord_of_measures {w : Word16} (h : measures (rangeOf s.cfg w) = true) :
    convertWord s.cfg s.rLow s.rMid s.rHigh w = .ok (wordValue s w) := by
  rw [convertWord, wordRange_eq_rangeOf, wordValue, ← codeOf_eq]
  cases hr : rangeOf s.cfg w with
  | none => rw [hr] at h; cases h
  | invalid => rw [hr] at h; cases h
  | low | mid | high => rfl

theorem convertWord_of_not_measures {w : Word16} (h : measures (rangeOf s.cfg w) = false) :
    convertWord s.cfg s.rLow s.rMid s.rHigh w = .fail (rangeError (rangeOf s.cfg w)) := by
  rw [convertWord, wordRange_eq_rangeOf]
  cases hr : rangeOf s.cfg w with
  | none | invalid => rfl
  | low => rw [hr] at h; cases h
  | mid => rw [hr] at h; cases h
  | high => rw [hr] at h; cases h

/-- The loop over words that all have a value gives every value in order. -/
theorem convertWords_values {conv : Word16 → WordResult} {value : Word16 → Word32} {ws : List Word16}
    (h : ∀ w ∈ ws, conv w = .ok (value w)) (i : Nat) : convertWords conv i ws = .values (ws.map value) := by
  induction ws generalizing i with
  | nil => rfl
  | cons w ws ih =>
    obtain ⟨hw, hws⟩ := List.forall_mem_cons.mp h
    simp only [convertWords, hw, ih hws, List.map_cons]

/-- The loop stops at the first word that fails, with its index. -/
theorem convertWords_failed {conv : Word16 → WordResult} {value : Word16 → Word32} {before later : List Word16}
    {w : Word16} {k : ErrKind} (h : ∀ u ∈ before, conv u = .ok (value u)) (hw : conv w = .fail k) (i : Nat) :
    convertWords conv i (before ++ w :: later) = .failed k (i + before.length) := by
  induction before generalizing i with
  | nil => simp only [List.nil_append, convertWords, hw, List.length_nil, Nat.add_zero]
  | cons u before ih =>
    obtain ⟨hu, hbefore⟩ := List.forall_mem_cons.mp h
    simp only [List.cons_append, convertWords, hu, ih hbefore, List.length_cons]
    rw [Nat.add_assoc, Nat.add_comm 1]

theorem frmBurst_of_values {f : List Byte} {vs : List Word32}
    (h : convertWords (convertWord s.cfg s.rLow s.rMid s.rHigh) 0 (frameWords f) = .values vs) :
    frmBurst f s = emit (.trigger vs (tsPlus s.ts (s.cfg.tSampleUs * (f.length / 2)))) s := by
  simp only [frmBurst, h]

theorem frmBurst_of_failed {f : List Byte} {k : ErrKind} {i : Nat}
    (h : convertWords (convertWord s.cfg s.rLow s.rMid s.rHigh) 0 (frameWords f) = .failed k i) :
    frmBurst f s = raise k (.wordIndex i) s := by
  simp only [frmBurst, h]

/-- Both kinds a burst can report have stage decode (R200). -/
theorem mkErr_rangeError (r : MeasurementRange) (info : Info) :
    mkErr (rangeError r) info = { kind := rangeError r, stage := .decode, info := info } := by
  cases r <;> rfl

/-- Settles O28: the loop collects every value, or stops at the first word without one. -/
theorem frmBurstResult : Obligations.FrmBurstResult := by
  intro s f
  refine ⟨fun all => ?_, fun before w later hsplit measured fails => ?_⟩
  · have values := convertWords_values (fun w hw => convertWord_of_measures (s := s) (all w hw)) 0
    rw [exec, execFrmBurst, frmBurst_of_values values, tsPlus_eq]
    rfl
  · have failed := convertWords_failed (later := later)
      (fun u hu => convertWord_of_measures (s := s) (measured u hu)) (convertWord_of_not_measures fails) 0
    rw [← hsplit, Nat.zero_add] at failed
    rw [exec, execFrmBurst, frmBurst_of_failed failed, raise, mkErr_rangeError]
    rfl

/-- A burst emits a trigger or an error. -/
theorem frmBurst_event (f : List Byte) (s : State) :
    (∃ vs τ, frmBurst f s = emit (.trigger vs τ) s) ∨ (∃ e, frmBurst f s = emit (.error e) s) := by
  cases h : convertWords (convertWord s.cfg s.rLow s.rMid s.rHigh) 0 (frameWords f) with
  | values vs => exact .inl ⟨_, _, frmBurst_of_values h⟩
  | failed k i => exact .inr ⟨_, frmBurst_of_failed h⟩

/-- Settles O29: the frame operation is the one the length selects, and each emits what its length says. -/
theorem eventsPerFrame : Obligations.EventsPerFrame := by
  intro s f
  rw [exec_decodeFrame]
  rcases classify_cases f s with ⟨v, len, e⟩ | ⟨k, len, e⟩ | ⟨ne4, ne5, e⟩
  · exact ⟨_, [.average v s.ts], rfl, by rw [e, frmAvg_evOut], fun _ => ⟨_, _, rfl⟩, by omega, by omega⟩
  · exact ⟨_, [], rfl, by rw [e, frmTick_evOut, List.append_nil], by omega, fun _ => rfl, by omega⟩
  · rcases frmBurst_event f s with ⟨vs, τ, emits⟩ | ⟨err, emits⟩
    · exact ⟨_, [.trigger vs τ], rfl, by rw [e, emits, emit_evOut], by omega, by omega,
        fun _ _ => .inl ⟨vs, τ, rfl⟩⟩
    · exact ⟨_, [.error err], rfl, by rw [e, emits, emit_evOut], by omega, by omega, fun _ _ => .inr ⟨err, rfl⟩⟩

/-- Settles O30: each word operation hands back its own result, with its own resistor. -/
theorem sampleWordsGiveTheirResult : Obligations.SampleWordsGiveTheirResult := by
  intro s code
  exact ⟨rfl, rfl, rfl, rfl⟩

end Sys2Proof.Machine
end

section
/-! The control operations by the lifecycle mode (`44_control_ops.md` section 2). -/

namespace Sys2Proof.Machine

variable {s : State}

theorem execOpenDone_of_not_starting (v : Verdict) (hrun : s.run ≠ .starting) : execOpenDone v s = .next s := by
  cases hmode : s.run with
  | starting => exact absurd hmode hrun
  | stopped => simp only [execOpenDone, hmode]
  | running => simp only [execOpenDone, hmode]

theorem execStop_of_running (hrun : s.run = .running) : execStop s = .next (endSession s) := by
  simp only [execStop, hrun]

theorem execStop_of_not_running (hrun : s.run ≠ .running) : execStop s = .next s := by
  cases hmode : s.run with
  | running => exact absurd hmode hrun
  | stopped => simp only [execStop, hmode]
  | starting => simp only [execStop, hmode]

/-- A failed sink ends the session after the send (R186, D20). -/
theorem execSend_fail (p : List Byte) (cause : Option Token) (hrun : s.run = .running) :
    execSend (some p) (.fail cause) s
      = .next (giveResult (.sendErr (mkErr .transport (.cause cause))) (endSession (txFrame p s))) := by
  simp only [execSend, hrun]

theorem execTransportFail_of_running (cause : Option Token) (hrun : s.run = .running) :
    execTransportFail cause s = .next (endSession (raise .transport (.cause cause) s)) := by
  simp only [execTransportFail, hrun]

/-- Settles O40: RESET writes every field but the configuration and the coming events. -/
theorem resetRestoresPowerOn : Obligations.ResetRestoresPowerOn := by
  intro s
  rfl

/-- Settles O42: the lifecycle check passes in `Stopped` alone. -/
theorem startOpensTheTransport : Obligations.StartOpensTheTransport := by
  intro s d hrun
  rw [exec, execStart, hrun]
  rfl

/-- Settles O44: in `Starting` the verdict selects the end of the start; in the other modes it is ignored. -/
theorem openDoneCompletesTheStart : Obligations.OpenDoneCompletesTheStart := by
  intro s
  refine ⟨fun hrun => ⟨fun md => ?_, ?_, fun cause => ?_⟩, fun hrun v => execOpenDone_of_not_starting v hrun⟩
  all_goals
    rw [exec, execOpenDone, hrun]
    rfl

/-- Settles O45: STOP ends the session in `Running` alone. -/
theorem stopEndsTheSession : Obligations.StopEndsTheSession := by
  intro s
  exact ⟨fun hrun => execStop_of_running hrun, fun hrun => execStop_of_not_running hrun⟩

/-- Settles O47: the frame is sent either way, and the sink's answer decides whether the session goes on. -/
theorem sendFramesTheCommand : Obligations.SendFramesTheCommand := by
  intro s p hrun
  refine ⟨execSend_ok p hrun, fun cause => (execSend_fail p cause hrun).trans ?_⟩
  have sentThenClosed : (endSession (txFrame p s)).txOut = s.txOut ++ [.send (encodeFrame s.cfg p), .close] := by
    rw [endSession_txOut, txFrame_txOut, List.append_assoc, List.singleton_append]
  rw [← sentThenClosed]
  rfl

/-- Settles O48: the three tests come before the write, and one that fails refuses the call. -/
theorem setcalWritesTheTriple : Obligations.SetcalWritesTheTriple := by
  intro s l m h
  refine ⟨fun low mid high => ?_, fun outside => ?_⟩
  · simp only [exec, execSetcal, low, mid, high, Bool.and_self, if_true]
  · have refused : ((cfgNum s.cfg).validF l && (cfgNum s.cfg).validF m && (cfgNum s.cfg).validF h) = false := by
      rcases outside with low | mid | high
      · rw [low, Bool.false_and, Bool.false_and]
      · rw [mid, Bool.and_false, Bool.false_and]
      · rw [high, Bool.and_false]
    simp only [exec, execSetcal, refused, Bool.false_eq_true, if_false]

/-- Settles O49: the mode decides whether a session, a start or nothing is ended. -/
theorem transportFailEndsTheSession : Obligations.TransportFailEndsTheSession := by
  intro s cause
  refine ⟨fun hrun => execTransportFail_of_running cause hrun, fun hrun => ?_, fun hrun => ?_⟩
  all_goals rw [exec, execTransportFail, hrun]
  rfl

end Sys2Proof.Machine
end

section
/-! What an operation writes. The receive and frame operations write the receiver, `ts` and one event at most
(`60_exceptions.md` section 3); on the buffer every operation keeps, clears or appends (`20_memory.md` R51, R52). -/

namespace Sys2Proof.Machine

variable {s t : State}

/-- The receive state, the buffer, `ts` and the event trace are written alone, the last by one event at most. -/
def ReceiveUpdate (s t : State) : Prop :=
  ∃ rs m n o τ ev, ev.length ≤ 1 ∧
    t = { s with rxState := rs, rxBuf := m, rxLen := n, rxOvf := o, ts := τ, evOut := s.evOut ++ ev }

theorem ReceiveUpdate.refl (s : State) : ReceiveUpdate s s :=
  ⟨s.rxState, s.rxBuf, s.rxLen, s.rxOvf, s.ts, [], Nat.zero_le 1, by rw [List.append_nil]⟩

/-- What comes after in the receive state and the buffer is of no account. -/
theorem ReceiveUpdate.receiver (h : ReceiveUpdate s t) (rs : RxState) (m : Memory) (n : Nat) (o : Bool) :
    ReceiveUpdate s { t with rxState := rs, rxBuf := m, rxLen := n, rxOvf := o } := by
  obtain ⟨_, _, _, _, τ, ev, atMostOne, rfl⟩ := h
  exact ⟨rs, m, n, o, τ, ev, atMostOne, rfl⟩

theorem append_receives (v : Byte) (s : State) : ReceiveUpdate s (append v s) := by
  rcases append_cases v s with ⟨-, e⟩ | ⟨-, -, e⟩ | ⟨-, -, e⟩ <;> rw [e]
  · exact (ReceiveUpdate.refl s).receiver s.rxState _ _ s.rxOvf
  · exact ⟨_, _, _, _, _, [_], Nat.le_refl 1, rfl⟩
  · exact ReceiveUpdate.refl s

theorem classify_receives (f : List Byte) (s : State) : ReceiveUpdate s (classify f s) := by
  obtain ⟨τ, ev, atMostOne, e⟩ := classify_writes f s
  exact ⟨_, _, _, _, τ, ev, atMostOne, e⟩

theorem frmBurst_receives (f : List Byte) (s : State) : ReceiveUpdate s (frmBurst f s) := by
  obtain ⟨e, emits⟩ := frmBurst_emits f s
  exact ⟨_, _, _, _, _, [e], Nat.le_refl 1, emits⟩

theorem execRxEtx_receives (h : execRxEtx s = .next t) : ReceiveUpdate s t := by
  rcases execRxEtx_cases h with ⟨-, rfl⟩ | ⟨-, f, -, rfl⟩
  · exact (ReceiveUpdate.refl s).receiver _ _ _ _
  · exact (classify_receives f s).receiver _ _ _ _

theorem execRxUnesc_receives {b : Byte} (h : execRxUnesc b s = .next t) : ReceiveUpdate s t := by
  cases h
  exact (append_receives (xorByte b) s).receiver _ _ _ _

theorem execRxbyte_receives {b : Byte} (h : execRxbyte b s = .next t) : ReceiveUpdate s t := by
  rcases execRxbyte_cases h with ⟨-, rfl⟩ | ⟨-, hEsc | hEtx | hData | hUnesc⟩
  · exact ReceiveUpdate.refl t
  · cases hEsc
    exact (ReceiveUpdate.refl s).receiver _ _ _ _
  · exact execRxEtx_receives hEtx
  · cases hData
    exact append_receives b s
  · exact execRxUnesc_receives hUnesc

theorem ReceiveUpdate.run (h : ReceiveUpdate s t) : t.run = s.run := by
  obtain ⟨_, _, _, _, _, _, -, rfl⟩ := h
  rfl

/-- What an operation can do to the buffer, its index and its flag. -/
inductive BufferMove (s t : State) : Prop where
  | kept (buffer : t.rxBuf = s.rxBuf) (index : t.rxLen = s.rxLen) (flag : t.rxOvf = s.rxOvf)
  | cleared (buffer : t.rxBuf = []) (index : t.rxLen = 0) (flag : t.rxOvf = false)
  | appended (v : Byte) (buffer : t.rxBuf = (append v s).rxBuf) (index : t.rxLen = (append v s).rxLen)
      (flag : t.rxOvf = (append v s).rxOvf)

theorem execRxEtx_bufferMove (h : execRxEtx s = .next t) : BufferMove s t := by
  rcases execRxEtx_cases h with ⟨-, rfl⟩ | ⟨-, f, -, rfl⟩ <;> exact .cleared rfl rfl rfl

theorem execRxbyte_bufferMove {b : Byte} (h : execRxbyte b s = .next t) : BufferMove s t := by
  rcases execRxbyte_cases h with ⟨-, rfl⟩ | ⟨-, hEsc | hEtx | hData | hUnesc⟩
  · exact .kept rfl rfl rfl
  · cases hEsc; exact .kept rfl rfl rfl
  · exact execRxEtx_bufferMove hEtx
  · cases hData; exact .appended b rfl rfl rfl
  · cases hUnesc; exact .appended (xorByte b) rfl rfl rfl

theorem frmBurst_bufferMove (f : List Byte) (s : State) : BufferMove s (frmBurst f s) := by
  obtain ⟨e, emits⟩ := frmBurst_emits f s
  rw [emits]
  exact .kept rfl rfl rfl

theorem execOpenDone_bufferMove {v : Verdict} (h : execOpenDone v s = .next t) : BufferMove s t := by
  rcases execOpenDone_cases h with ⟨-, rfl⟩ | ⟨-, ⟨_, -, rfl⟩ | ⟨-, rfl⟩ | ⟨_, -, rfl⟩⟩
  · exact .kept rfl rfl rfl
  · exact .cleared rfl rfl rfl
  · exact .kept rfl rfl rfl
  · exact .kept rfl rfl rfl

theorem execSend_bufferMove {cmd : Option (List Byte)} {o : SinkOutcome} (h : execSend cmd o s = .next t) :
    BufferMove s t := by
  rcases execSend_cases cmd o s with ⟨-, e⟩ | ⟨-, -, e⟩ | ⟨_, -, -, -, e⟩ | ⟨_, _, -, -, -, e⟩ <;>
    (rw [e] at h; cases h)
  · exact .kept rfl rfl rfl
  · exact .kept rfl rfl rfl
  · exact .kept rfl rfl rfl
  · exact .cleared rfl rfl rfl

theorem exec_bufferMove {i : Instr} (h : exec i s = .next t) : BufferMove s t := by
  cases i with
  | rxEtx => exact execRxEtx_bufferMove h
  | rxData b => cases h; exact .appended b rfl rfl rfl
  | rxUnesc b => cases h; exact .appended (xorByte b) rfl rfl rfl
  | rxbyte b => exact execRxbyte_bufferMove h
  | frmBurst f => cases h; exact frmBurst_bufferMove f s
  | reset => cases h; exact .cleared rfl rfl rfl
  | start d => rcases execStart_cases h with ⟨-, rfl⟩ | ⟨-, rfl⟩ <;> exact .kept rfl rfl rfl
  | openDone v => exact execOpenDone_bufferMove h
  | stop =>
    rcases execStop_cases h with ⟨-, rfl⟩ | ⟨-, rfl⟩
    · exact .cleared rfl rfl rfl
    · exact .kept rfl rfl rfl
  | send cmd o => exact execSend_bufferMove h
  | setcal l m r =>
    obtain ⟨-, rfl⟩ := execSetcal_cases h
    exact .kept rfl rfl rfl
  | transportFail c =>
    rcases execTransportFail_cases h with ⟨-, rfl⟩ | ⟨-, rfl⟩ | ⟨-, rfl⟩
    · exact .cleared rfl rfl rfl
    · exact .kept rfl rfl rfl
    · exact .kept rfl rfl rfl
  | rxEsc | frmAvg | frmTick => cases h; exact .kept rfl rfl rfl
  | txStuffStx | txStuffEtx | txStuffEsc | txLit | txFrame => cases h; exact .kept rfl rfl rfl
  | wNone | wLow | wMid | wHigh => cases h; exact .kept rfl rfl rfl

theorem BufferMove.wf (h : BufferMove s t) (hs : s.rxBuf.wf) : t.rxBuf.wf := by
  cases h with
  | kept buffer => rw [buffer]; exact hs
  | cleared buffer => rw [buffer]; exact Memory.wf_nil
  | appended v buffer => rw [buffer]; exact append_wf hs

theorem BufferMove.cells (h : BufferMove s t) (hs : bufferExact s) : bufferExact t := by
  cases h with
  | kept buffer index => rw [bufferExact, buffer, index]; exact hs
  | cleared buffer index => exact bufferExact_of_empty buffer index
  | appended v buffer index => rw [bufferExact, buffer, index]; exact append_bufferExact hs

/-- An append stores only where there is room. -/
theorem append_lengthBounded {v : Byte} (h : lengthBounded s) : lengthBounded (append v s) := by
  rcases append_cases v s with ⟨room, e⟩ | ⟨-, -, e⟩ | ⟨-, -, e⟩ <;> rw [e]
  · exact (roomLeft_iff s).mpr room
  · exact h
  · exact h

/-- An append sets the flag only where there is no room. -/
theorem append_overflow {v : Byte} (h : s.rxOvf = true → hasRoom s.cfg s.rxLen = false) :
    (append v s).rxOvf = true → hasRoom s.cfg (append v s).rxLen = false := by
  rcases append_cases v s with ⟨room, e⟩ | ⟨full, -, e⟩ | ⟨-, -, e⟩ <;> rw [e]
  · intro lost
    rw [h lost] at room
    cases room
  · exact fun _ => full
  · exact h

theorem BufferMove.bounded (h : BufferMove s t) (hcfg : t.cfg = s.cfg) (hs : lengthBounded s) :
    lengthBounded t := by
  rw [lengthBounded, hcfg]
  cases h with
  | kept _ index => rw [index]; exact hs
  | cleared _ index => rw [index]; exact fun _ _ => Nat.zero_le _
  | appended v _ index =>
    have bounded := append_lengthBounded (v := v) hs
    rw [lengthBounded, append_cfg] at bounded
    rw [index]
    exact bounded

theorem BufferMove.overflow (h : BufferMove s t) (hcfg : t.cfg = s.cfg)
    (hs : s.rxOvf = true → hasRoom s.cfg s.rxLen = false) : t.rxOvf = true → hasRoom t.cfg t.rxLen = false := by
  rw [hcfg]
  cases h with
  | kept _ index flag => rw [index, flag]; exact hs
  | cleared _ _ flag => rw [flag]; exact nofun
  | appended v _ index flag => rw [index, flag]; exact append_overflow hs

/-- Settles O53: no operation lists a cell but by an append, and the step adds nothing. -/
theorem stepKeepsTheBufferCanonical : Obligations.StepKeepsTheBufferCanonical := by
  intro s t hs h
  rcases step_cases s with ⟨-, idle⟩ | ⟨_, rest, -, ⟨i, -, runs⟩ | ⟨-, drops⟩ | ⟨-, refuses⟩⟩
  · rw [idle] at h; cases h; exact hs
  · rw [runs] at h; exact (exec_bufferMove (s := { s with input := rest }) h).wf hs
  · rw [drops] at h; cases h; exact hs
  · rw [refuses] at h; cases h

/-! ### Calibration and events -/

/-- The calibration is as before, and one event at most is behind those before. -/
structure KeepsCalibration (s t : State) : Prop where
  low    : t.rLow = s.rLow
  mid    : t.rMid = s.rMid
  high   : t.rHigh = s.rHigh
  events : ∃ ev : List HostEvent, ev.length ≤ 1 ∧ t.evOut = s.evOut ++ ev

theorem ReceiveUpdate.keepsCalibration (h : ReceiveUpdate s t) : KeepsCalibration s t := by
  obtain ⟨_, _, _, _, _, ev, atMostOne, rfl⟩ := h
  exact ⟨rfl, rfl, rfl, ev, atMostOne, rfl⟩

/-- Without an event. -/
theorem KeepsCalibration.quiet (low : t.rLow = s.rLow) (mid : t.rMid = s.rMid) (high : t.rHigh = s.rHigh)
    (events : t.evOut = s.evOut) : KeepsCalibration s t :=
  ⟨low, mid, high, [], Nat.zero_le 1, by rw [events, List.append_nil]⟩

theorem execSend_keepsCalibration {cmd : Option (List Byte)} {o : SinkOutcome} (h : execSend cmd o s = .next t) :
    KeepsCalibration s t := by
  rcases execSend_cases cmd o s with ⟨-, e⟩ | ⟨-, -, e⟩ | ⟨_, -, -, -, e⟩ | ⟨_, _, -, -, -, e⟩ <;>
    (rw [e] at h; cases h; exact .quiet rfl rfl rfl rfl)

/-- Every operation but RESET and SETCAL. -/
theorem exec_keepsCalibration {i : Instr} (hreset : i ≠ .reset) (hsetcal : ∀ l m r, i ≠ .setcal l m r)
    (h : exec i s = .next t) : KeepsCalibration s t := by
  cases i with
  | reset => exact absurd rfl hreset
  | setcal l m r => exact absurd rfl (hsetcal l m r)
  | rxEtx => exact (execRxEtx_receives h).keepsCalibration
  | rxData b => cases h; exact (append_receives b s).keepsCalibration
  | rxUnesc b => exact (execRxUnesc_receives h).keepsCalibration
  | rxbyte b => exact (execRxbyte_receives h).keepsCalibration
  | frmAvg v => cases h; exact ⟨rfl, rfl, rfl, [_], Nat.le_refl 1, rfl⟩
  | frmBurst f => cases h; exact (frmBurst_receives f s).keepsCalibration
  | start d => rcases execStart_cases h with ⟨-, rfl⟩ | ⟨-, rfl⟩ <;> exact .quiet rfl rfl rfl rfl
  | openDone v =>
    rcases execOpenDone_cases h with ⟨-, rfl⟩ | ⟨-, ⟨_, -, rfl⟩ | ⟨-, rfl⟩ | ⟨_, -, rfl⟩⟩ <;>
      exact .quiet rfl rfl rfl rfl
  | stop => rcases execStop_cases h with ⟨-, rfl⟩ | ⟨-, rfl⟩ <;> exact .quiet rfl rfl rfl rfl
  | send cmd o => exact execSend_keepsCalibration h
  | transportFail c =>
    rcases execTransportFail_cases h with ⟨-, rfl⟩ | ⟨-, rfl⟩ | ⟨-, rfl⟩
    · exact ⟨rfl, rfl, rfl, [_], Nat.le_refl 1, rfl⟩
    · exact .quiet rfl rfl rfl rfl
    · exact .quiet rfl rfl rfl rfl
  | rxEsc | frmTick => cases h; exact .quiet rfl rfl rfl rfl
  | txStuffStx | txStuffEtx | txStuffEsc | txLit | txFrame => cases h; exact .quiet rfl rfl rfl rfl
  | wNone | wLow | wMid | wHigh => cases h; exact .quiet rfl rfl rfl rfl

/-- Settles O55: every other operation keeps the triple. -/
theorem calibrationChangesOnlyBySetcalOrReset : Obligations.CalibrationChangesOnlyBySetcalOrReset := by
  intro i s t hreset hsetcal h
  obtain ⟨low, mid, high, -⟩ := exec_keepsCalibration hreset hsetcal h
  exact ⟨low, mid, high⟩

/-- Settles O57: SETCAL emits nothing, and the others are those of O55. -/
theorem atMostOneEventPerOperation : Obligations.AtMostOneEventPerOperation := by
  intro i s t hreset h
  by_cases hsetcal : ∃ l m r, i = .setcal l m r
  · obtain ⟨l, m, r, rfl⟩ := hsetcal
    obtain ⟨-, rfl⟩ := execSetcal_cases h
    exact ⟨[], Nat.zero_le 1, by rw [List.append_nil]⟩
  · exact (exec_keepsCalibration hreset (fun l m r e => hsetcal ⟨l, m, r, e⟩) h).events

end Sys2Proof.Machine
end

section
/-! The lifecycle (`44_control_ops.md` section 1, R180): what each operation does to `run`, and that a step outside
`Running` takes a call and is silent. -/

namespace Sys2Proof.Machine

variable {s t : State}

theorem execStart_run {d : Token} (h : execStart d s = .next t) : t.run = lifecycleAfter (.start d) s.run := by
  rcases execStart_cases h with ⟨hrun, rfl⟩ | ⟨hrun, rfl⟩
  · exact (if_pos hrun).symm
  · exact (if_neg hrun).symm

theorem execOpenDone_run {v : Verdict} (h : execOpenDone v s = .next t) :
    t.run = lifecycleAfter (.openDone v) s.run := by
  rcases execOpenDone_cases h with ⟨hrun, rfl⟩ | ⟨hrun, ⟨_, rfl, rfl⟩ | ⟨rfl, rfl⟩ | ⟨_, rfl, rfl⟩⟩
  · exact (if_neg hrun).symm
  all_goals
    rw [lifecycleAfter, if_pos hrun]
    rfl

theorem execStop_run (h : execStop s = .next t) : t.run = lifecycleAfter .stop s.run := by
  rcases execStop_cases h with ⟨hrun, rfl⟩ | ⟨hrun, rfl⟩
  · exact (if_pos hrun).symm
  · exact (if_neg hrun).symm

theorem execSend_run {cmd : Option (List Byte)} {o : SinkOutcome} (h : execSend cmd o s = .next t) :
    t.run = lifecycleAfter (.send cmd o) s.run := by
  rcases execSend_cases cmd o s with
      ⟨hrun, e⟩ | ⟨-, rfl, e⟩ | ⟨_, -, -, rfl, e⟩ | ⟨_, _, hrun, rfl, rfl, e⟩ <;>
    (rw [e] at h; cases h)
  · exact (if_neg fun ends => hrun ends.1).symm
  · exact (if_neg fun ends => Bool.false_ne_true ends.2.1).symm
  · exact (if_neg fun ends => ends.2.2 rfl).symm
  · exact (if_pos ⟨hrun, rfl, nofun⟩).symm

theorem execTransportFail_run {c : Option Token} (h : execTransportFail c s = .next t) : t.run = .stopped := by
  rcases execTransportFail_cases h with ⟨-, rfl⟩ | ⟨-, rfl⟩ | ⟨hrun, rfl⟩
  · rfl
  · rfl
  · exact hrun

theorem exec_run {i : Instr} (h : exec i s = .next t) : t.run = lifecycleAfter i s.run := by
  cases i with
  | rxEtx => exact (execRxEtx_receives h).run
  | rxData b => cases h; exact append_run b s
  | rxUnesc b => exact (execRxUnesc_receives h).run
  | rxbyte b => exact (execRxbyte_receives h).run
  | frmBurst f => cases h; exact (frmBurst_receives f s).run
  | start d => exact execStart_run h
  | openDone v => exact execOpenDone_run h
  | stop => exact execStop_run h
  | send cmd o => exact execSend_run h
  | setcal l m r =>
    obtain ⟨-, rfl⟩ := execSetcal_cases h
    rfl
  | transportFail c => exact execTransportFail_run h
  | rxEsc | reset | frmAvg | frmTick => cases h; rfl
  | txStuffStx | txStuffEtx | txStuffEsc | txLit | txFrame => cases h; rfl
  | wNone | wLow | wMid | wHigh => cases h; rfl

/-- Settles O56: operation by operation, `run` ends at the table's entry. -/
theorem lifecycleMovesAsTabulated : Obligations.LifecycleMovesAsTabulated := by
  intro i s t h
  exact exec_run h

/-- Outside `Running` a call other than RESET emits nothing. -/
theorem exec_call_quiet {c : Call} (hrun : s.run ≠ .running) (hreset : c ≠ .reset)
    (h : exec (decodeCall c) s = .next t) : t.evOut = s.evOut := by
  cases c with
  | reset => exact absurd rfl hreset
  | start d => rcases execStart_cases h with ⟨-, rfl⟩ | ⟨-, rfl⟩ <;> rfl
  | openDone v =>
    rcases execOpenDone_cases h with ⟨-, rfl⟩ | ⟨-, ⟨_, -, rfl⟩ | ⟨-, rfl⟩ | ⟨_, -, rfl⟩⟩ <;> rfl
  | stop => rcases execStop_cases h with ⟨-, rfl⟩ | ⟨-, rfl⟩ <;> rfl
  | send cmd o => cases (execSend_of_not_running cmd o hrun).symm.trans h; rfl
  | setcal l m r =>
    obtain ⟨-, rfl⟩ := execSetcal_cases h
    rfl
  | rxbyte b => cases (execRxbyte_of_not_running hrun).symm.trans h; rfl
  | transportFail c =>
    rcases execTransportFail_cases h with ⟨running, -⟩ | ⟨-, rfl⟩ | ⟨-, rfl⟩
    · exact absurd running hrun
    · rfl
    · rfl

/-- Outside `Running` only a call selects an operation (R82). -/
theorem call_of_decode_op {x : Ctx} {e : Event} {i : Instr} (hrun : x.run ≠ .running) (h : decode x e = .op i) :
    ∃ c, e = .call c ∧ i = decodeCall c := by
  cases e with
  | call c => cases h; exact ⟨c, rfl, rfl⟩
  | datum port bytes =>
    rw [decode_datum_of_not_running hrun] at h
    cases h

/-- Settles O58: the step takes a call, which is silent or is RESET. -/
theorem noEventOutsideRunning : Obligations.NoEventOutsideRunning := by
  intro s t hrun h
  rcases step_cases s with ⟨-, idle⟩ | ⟨e, rest, hinput, ⟨i, selects, runs⟩ | ⟨-, drops⟩ | ⟨-, refuses⟩⟩
  · rw [idle] at h; cases h; exact .inl rfl
  · obtain ⟨c, rfl, rfl⟩ := call_of_decode_op (x := s.ctx) hrun selects
    rw [runs] at h
    by_cases hreset : c = .reset
    · subst hreset
      cases h
      exact .inr ⟨rfl, rest, hinput⟩
    · exact .inl (exec_call_quiet (s := { s with input := rest }) hrun hreset h)
  · rw [drops] at h; cases h; exact .inl rfl
  · rw [refuses] at h; cases h

end Sys2Proof.Machine
end

section
/-! The invariants of the state (`10_state.md` R37, `60_exceptions.md` R215): they hold at power-on, every step keeps
them, and under them a step answers. -/

namespace Sys2Proof.Machine

variable {s t : State}

theorem powerOn_inv {c : Cfg} (h : c.wf = true) : (State.powerOn c).Inv where
  cfg := h
  buffer := rfl
  bounded := fun _ _ => Nat.zero_le _
  calibration := Cfg.defaults_of_wf h
  overflow := nofun
  idle := fun _ => ⟨rfl, rfl, rfl, rfl, rfl⟩

theorem cfgEx_wf : Config.cfgEx.wf = true := by decide +kernel

/-- Settles O51: power-on is an empty session with the defaults, and `CFG_EX` is well-formed. -/
theorem powerOnMeetsTheInvariant : Obligations.PowerOnMeetsTheInvariant :=
  ⟨fun _ h => powerOn_inv h, powerOn_inv cfgEx_wf⟩

/-- The invariants do not speak of the coming events. -/
theorem inv_input (h : s.Inv) (rest : List Event) : State.Inv { s with input := rest } :=
  ⟨h.cfg, h.buffer, h.bounded, h.calibration, h.overflow, h.idle⟩

theorem exec_calibrationValid {i : Instr} (hs : s.Inv) (h : exec i s = .next t) : calibrationValid t := by
  have hcfg := exec_cfg h
  by_cases hreset : i = .reset
  · subst hreset
    cases h
    exact Cfg.defaults_of_wf hs.cfg
  · by_cases hsetcal : ∃ l m r, i = .setcal l m r
    · obtain ⟨l, m, r, rfl⟩ := hsetcal
      obtain ⟨duty, rfl⟩ := execSetcal_cases h
      obtain ⟨⟨low, mid⟩, high⟩ := by simpa only [Bool.and_eq_true] using duty
      exact ⟨low, mid, high⟩
    · have keeps := exec_keepsCalibration hreset (fun l m r e => hsetcal ⟨l, m, r, e⟩) h
      rw [calibrationValid, hcfg, keeps.low, keeps.mid, keeps.high]
      exact hs.calibration

/-- A call that ends outside `Running` leaves the session cleared: it ended the session, or found it so. -/
theorem exec_call_idle {c : Call} (hidle : s.run ≠ .running → sessionCleared s)
    (h : exec (decodeCall c) s = .next t) (hrun : t.run ≠ .running) : sessionCleared t := by
  cases c with
  | reset => cases h; exact ⟨rfl, rfl, rfl, rfl, rfl⟩
  | start d =>
    rcases execStart_cases h with ⟨stopped, rfl⟩ | ⟨-, rfl⟩
    · exact hidle (by rw [stopped]; exact nofun)
    · exact hidle hrun
  | openDone v =>
    rcases execOpenDone_cases h with ⟨-, rfl⟩ | ⟨starting, ⟨_, -, rfl⟩ | ⟨-, rfl⟩ | ⟨_, -, rfl⟩⟩
    · exact hidle hrun
    · exact absurd rfl hrun
    · exact hidle (by rw [starting]; exact nofun)
    · exact hidle (by rw [starting]; exact nofun)
  | stop =>
    rcases execStop_cases h with ⟨-, rfl⟩ | ⟨-, rfl⟩
    · exact ⟨rfl, rfl, rfl, rfl, rfl⟩
    · exact hidle hrun
  | send cmd o =>
    rcases execSend_cases cmd o s with ⟨-, e⟩ | ⟨-, -, e⟩ | ⟨_, -, -, -, e⟩ | ⟨_, _, -, -, -, e⟩ <;>
      cases e.symm.trans h
    · exact hidle hrun
    · exact hidle hrun
    · exact hidle hrun
    · exact ⟨rfl, rfl, rfl, rfl, rfl⟩
  | setcal l m r =>
    obtain ⟨-, rfl⟩ := execSetcal_cases h
    exact hidle hrun
  | rxbyte b =>
    have stopped : s.run ≠ .running := (execRxbyte_receives h).run ▸ hrun
    cases (execRxbyte_of_not_running stopped).symm.trans h
    exact hidle hrun
  | transportFail c =>
    rcases execTransportFail_cases h with ⟨-, rfl⟩ | ⟨starting, rfl⟩ | ⟨-, rfl⟩
    · exact ⟨rfl, rfl, rfl, rfl, rfl⟩
    · exact hidle (by rw [starting]; exact nofun)
    · exact hidle hrun

theorem lifecycleAfter_of_inner {i : Instr} (h : i.format ≠ .ctl) (r : Lifecycle) : lifecycleAfter i r = r := by
  cases i with
  | reset | start | openDone | stop | send | setcal | rxbyte | transportFail => exact absurd rfl h
  | rxEsc | rxEtx | rxData | rxUnesc | frmAvg | frmTick | frmBurst => rfl
  | txStuffStx | txStuffEtx | txStuffEsc | txLit | txFrame => rfl
  | wNone | wLow | wMid | wHigh => rfl

/-- A call is encoded as a call, so no datum decodes to one. -/
theorem format_ne_ctl_of_datum {x : Ctx} {port : Port} {bytes : List Byte} {i : Instr}
    (h : decode x (.datum port bytes) = .op i) : i.format ≠ .ctl := by
  intro hctl
  have encoded := (carried_of_decode h).encoded (.inl (by rw [hctl]; exact nofun))
  cases i with
  | reset | start | openDone | stop | send | setcal | rxbyte | transportFail => cases encoded
  | rxEsc | rxEtx | rxData | rxUnesc | frmAvg | frmTick | frmBurst => cases hctl
  | txStuffStx | txStuffEtx | txStuffEsc | txLit | txFrame => cases hctl
  | wNone | wLow | wMid | wHigh => cases hctl

theorem running_of_datum {x : Ctx} {port : Port} {bytes : List Byte} {i : Instr}
    (h : decode x (.datum port bytes) = .op i) : x.run = .running := by
  by_contra hrun
  rw [decode_datum_of_not_running hrun] at h
  cases h

/-- Outside `Running` the session is cleared after a step that finds it so there: a datum is taken while `Running`
and leaves `run` as it was. -/
theorem step_idle {e : Event} {rest : List Event} {i : Instr} (hs : s.Inv) (selects : decode s.ctx e = .op i)
    (h : exec i { s with input := rest } = .next t) (hrun : t.run ≠ .running) : sessionCleared t := by
  cases e with
  | call c =>
    cases selects
    exact exec_call_idle (s := { s with input := rest }) hs.idle h hrun
  | datum port bytes =>
    have stays : t.run = s.run := (exec_run h).trans (lifecycleAfter_of_inner (format_ne_ctl_of_datum selects) _)
    exact absurd (stays.trans (running_of_datum selects)) hrun

/-- Settles O50: the step runs an operation on the state with the event taken, and each field of the invariants is
kept by what that operation can do to it. -/
theorem stepKeepsTheInvariant : Obligations.StepKeepsTheInvariant := by
  intro s t hs h
  rcases step_cases s with ⟨-, idle⟩ | ⟨e, rest, -, ⟨i, selects, runs⟩ | ⟨-, drops⟩ | ⟨-, refuses⟩⟩
  · rw [idle] at h; cases h; exact hs
  · rw [runs] at h
    have taken := inv_input hs rest
    have hcfg := exec_cfg h
    have move := exec_bufferMove h
    exact {
      cfg := hcfg ▸ hs.cfg
      buffer := move.cells taken.buffer
      bounded := move.bounded hcfg taken.bounded
      calibration := exec_calibrationValid taken h
      overflow := move.overflow hcfg taken.overflow
      idle := step_idle hs selects h }
  · rw [drops] at h; cases h; exact inv_input hs rest
  · rw [refuses] at h; cases h

/-! ### Progress -/

theorem execRxEtx_answers (hbuf : bufferExact s) : ∃ t, execRxEtx s = .next t := by
  cases hovf : s.rxOvf with
  | true => exact ⟨_, execRxEtx_of_overflow hovf⟩
  | false => exact ⟨_, execRxEtx_of_exact hbuf hovf⟩

theorem execRxbyte_answers (hbuf : bufferExact s) (b : Byte) : ∃ t, execRxbyte b s = .next t := by
  by_cases hrun : s.run = .running
  · cases hstate : s.rxState with
    | escapePending => exact ⟨_, execRxbyte_escapePending hrun hstate⟩
    | normal =>
      by_cases hesc : b = s.cfg.esc
      · rw [hesc]
        exact ⟨_, execRxbyte_esc hrun hstate⟩
      · by_cases hetx : b = s.cfg.etx
        · rw [execRxbyte_etx hrun hstate hesc hetx]
          exact execRxEtx_answers hbuf
        · exact ⟨_, execRxbyte_data hrun hstate hesc hetx⟩
  · exact ⟨_, execRxbyte_of_not_running hrun⟩

theorem execSend_answers (cmd : Option (List Byte)) (o : SinkOutcome) (s : State) :
    ∃ t, execSend cmd o s = .next t := by
  rcases execSend_cases cmd o s with ⟨-, e⟩ | ⟨-, -, e⟩ | ⟨_, -, -, -, e⟩ | ⟨_, _, -, -, -, e⟩ <;> exact ⟨_, e⟩

theorem execStart_answers (d : Token) (s : State) : ∃ t, execStart d s = .next t := by
  unfold execStart
  split <;> exact ⟨_, rfl⟩

theorem execOpenDone_answers (v : Verdict) (s : State) : ∃ t, execOpenDone v s = .next t := by
  unfold execOpenDone
  repeat' split
  all_goals exact ⟨_, rfl⟩

theorem execStop_answers (s : State) : ∃ t, execStop s = .next t := by
  unfold execStop
  split <;> exact ⟨_, rfl⟩

theorem execTransportFail_answers (c : Option Token) (s : State) : ∃ t, execTransportFail c s = .next t := by
  unfold execTransportFail
  split <;> exact ⟨_, rfl⟩

/-- An operation answers on an exact buffer, a SETCAL within the host's duty. -/
theorem exec_answers {i : Instr} (hbuf : bufferExact s)
    (hduty : ∀ l m r, i = .setcal l m r → inDuty s.cfg (.call (.setcal l m r)) = true) :
    ∃ t, exec i s = .next t := by
  cases i with
  | rxEtx => exact execRxEtx_answers hbuf
  | rxbyte b => exact execRxbyte_answers hbuf b
  | setcal l m r => exact ⟨_, if_pos (hduty l m r rfl)⟩
  | start d => exact execStart_answers d s
  | openDone v => exact execOpenDone_answers v s
  | stop => exact execStop_answers s
  | send cmd o => exact execSend_answers cmd o s
  | transportFail c => exact execTransportFail_answers c s
  | rxEsc | rxData | rxUnesc | reset | frmAvg | frmTick | frmBurst => exact ⟨_, rfl⟩
  | txStuffStx | txStuffEtx | txStuffEsc | txLit | txFrame => exact ⟨_, rfl⟩
  | wNone | wLow | wMid | wHigh => exact ⟨_, rfl⟩

/-- Settles O52: a datum of its port's width is not rejected, the buffer is exact, and a SETCAL comes from its call
alone. -/
theorem stepAnswersUnderTheInvariant : Obligations.StepAnswersUnderTheInvariant := by
  intro s hs hevent
  rcases step_cases s with ⟨-, idle⟩ | ⟨e, rest, hinput, ⟨i, selects, runs⟩ | ⟨-, drops⟩ | ⟨rejects, -⟩⟩
  · exact ⟨_, idle⟩
  · rw [runs]
    refine exec_answers (s := { s with input := rest }) hs.buffer fun l m r e_setcal => ?_
    subst e_setcal
    have call : Event.call (.setcal l m r) = e := (carried_of_decode selects).encoded (.inl nofun)
    rw [call]
    exact (hevent e rest hinput).2
  · exact ⟨_, drops⟩
  · have wrong := ((decode_eq_datumWidth_iff s.ctx e).mp rejects).2
    rw [(hevent e rest hinput).1] at wrong
    cases wrong

/-- Settles O10: RXBYTE answers, writes as a receive operation, and keeps the buffer exact as every operation does. -/
theorem rxbyteCompletes : Obligations.RxbyteCompletes := by
  intro s b hbuf
  obtain ⟨t, answers⟩ := execRxbyte_answers hbuf b
  have cells := (execRxbyte_bufferMove answers).cells hbuf
  obtain ⟨_, _, _, _, _, ev, atMostOne, rfl⟩ := execRxbyte_receives answers
  exact ⟨_, ev, answers, atMostOne, rfl, cells⟩

end Sys2Proof.Machine
end

section
/-! What no operation reads (`10_state.md` R33, `20_memory.md` R58): the output traces, and for the receiver the
results as well. -/

namespace Sys2Proof.Machine

/-- The state with events put before its own, and its actions and results changed in any way. -/
def retrace (ev : List HostEvent) (tx : List TxAction → List TxAction) (rs : List CallResult → List CallResult)
    (s : State) : State :=
  { s with evOut := ev ++ s.evOut, txOut := tx s.txOut, results := rs s.results }

section receiver

variable (ev : List HostEvent) (tx : List TxAction → List TxAction) (rs : List CallResult → List CallResult)

theorem emit_retrace (e : HostEvent) (s : State) : emit e (retrace ev tx rs s) = retrace ev tx rs (emit e s) := by
  simp only [emit, retrace, List.append_assoc]

theorem append_retrace (v : Byte) (s : State) :
    append v (retrace ev tx rs s) = retrace ev tx rs (append v s) := by
  rcases append_cases v s with ⟨room, e⟩ | ⟨full, first, e⟩ | ⟨full, again, e⟩ <;> rw [e]
  · exact append_of_room (s := retrace ev tx rs s) room
  · rw [append_of_full_first (s := retrace ev tx rs s) full first, raise, emit_retrace]
    rfl
  · exact append_of_full_again (s := retrace ev tx rs s) full again

theorem frmBurst_retrace (f : List Byte) (s : State) :
    frmBurst f (retrace ev tx rs s) = retrace ev tx rs (frmBurst f s) := by
  cases h : convertWords (convertWord s.cfg s.rLow s.rMid s.rHigh) 0 (frameWords f) with
  | values vs =>
    rw [frmBurst_of_values h, frmBurst_of_values (s := retrace ev tx rs s) h, emit_retrace]
    rfl
  | failed k i => rw [frmBurst_of_failed h, frmBurst_of_failed (s := retrace ev tx rs s) h, raise, emit_retrace, raise]

theorem frmAvg_retrace (v : Word32) (s : State) :
    frmAvg v (retrace ev tx rs s) = retrace ev tx rs (frmAvg v s) := by
  rw [frmAvg, emit_retrace]
  rfl

theorem classify_retrace (f : List Byte) (s : State) :
    classify f (retrace ev tx rs s) = retrace ev tx rs (classify f s) := by
  unfold classify
  split
  · exact frmAvg_retrace ev tx rs _ s
  · rfl
  · exact frmBurst_retrace ev tx rs f s

theorem execRxEtx_retrace (s : State) :
    execRxEtx (retrace ev tx rs s) = mapNext (retrace ev tx rs) (execRxEtx s) := by
  cases hovf : s.rxOvf with
  | true => rw [execRxEtx_of_overflow hovf, execRxEtx_of_overflow (s := retrace ev tx rs s) hovf]; rfl
  | false =>
    have sameFrame : takeFrame (retrace ev tx rs s) = takeFrame s := rfl
    have sameFlag : (retrace ev tx rs s).rxOvf = false := hovf
    simp only [execRxEtx, hovf, sameFlag, sameFrame, classify_retrace, Bool.false_eq_true, if_false]
    cases takeFrame s with
    | none => rfl
    | some f => rfl

theorem execRxUnesc_retrace (b : Byte) (s : State) :
    execRxUnesc b (retrace ev tx rs s) = mapNext (retrace ev tx rs) (execRxUnesc b s) := by
  rw [execRxUnesc, append_retrace]
  rfl

/-- The receiver reads neither trace nor the results. -/
theorem execRxbyte_retrace (b : Byte) (s : State) :
    execRxbyte b (retrace ev tx rs s) = mapNext (retrace ev tx rs) (execRxbyte b s) := by
  by_cases hrun : s.run = .running
  · cases hstate : s.rxState with
    | escapePending =>
      have pending : execRxbyte b s = execRxUnesc b s := execRxbyte_escapePending hrun hstate
      rw [pending, ← execRxUnesc_retrace]
      exact execRxbyte_escapePending (s := retrace ev tx rs s) hrun hstate
    | normal =>
      by_cases hesc : b = s.cfg.esc
      · rw [hesc, execRxbyte_esc hrun hstate]
        exact execRxbyte_esc (s := retrace ev tx rs s) hrun hstate
      · by_cases hetx : b = s.cfg.etx
        · rw [execRxbyte_etx hrun hstate hesc hetx, ← execRxEtx_retrace]
          exact execRxbyte_etx (s := retrace ev tx rs s) hrun hstate hesc hetx
        · rw [execRxbyte_data hrun hstate hesc hetx, execRxbyte_data (s := retrace ev tx rs s) hrun hstate hesc hetx,
            append_retrace]
          rfl
  · rw [execRxbyte_of_not_running hrun, execRxbyte_of_not_running (s := retrace ev tx rs s) hrun]
    rfl

end receiver

/-- Settles O60: the send adds to two traces what it takes from the configuration, and the receiver reads neither. -/
theorem sendAndReceiveCommute : Obligations.SendAndReceiveCommute := by
  intro s p b hrun hbuf
  obtain ⟨v, received⟩ := execRxbyte_answers hbuf b
  have hv : v.run = .running := (execRxbyte_receives received).run.trans hrun
  have sends (u : State) (hcfg : u.cfg = s.cfg) :
      sentOk p u = retrace [] (· ++ [.send (encodeFrame s.cfg p)]) (· ++ [.sendOk]) u := by
    rw [← hcfg]
    rfl
  refine ⟨sentOk p s, v, sentOk p v, execSend_ok p hrun, ?_, received, execSend_ok p hv⟩
  change execRxbyte b (sentOk p s) = _
  rw [sends s rfl, sends v (execRxbyte_cfg received), execRxbyte_retrace, received]
  rfl

section history

variable (ev : List HostEvent) (tx : List TxAction)

@[simp] theorem withHistory_run (s : State) : (withHistory ev tx s).run = s.run := rfl
@[simp] theorem withHistory_cfg (s : State) : (withHistory ev tx s).cfg = s.cfg := rfl

theorem transmit_withHistory (a : TxAction) (s : State) :
    transmit a (withHistory ev tx s) = withHistory ev tx (transmit a s) := by
  simp only [transmit, withHistory, List.append_assoc]

theorem raise_withHistory (k : ErrKind) (info : Info) (s : State) :
    raise k info (withHistory ev tx s) = withHistory ev tx (raise k info s) :=
  emit_retrace ev (tx ++ ·) id _ s

theorem endSession_withHistory (s : State) :
    endSession (withHistory ev tx s) = withHistory ev tx (endSession s) := by
  rw [endSession, transmit_withHistory]
  rfl

theorem txFrame_withHistory (p : List Byte) (s : State) :
    txFrame p (withHistory ev tx s) = withHistory ev tx (txFrame p s) :=
  transmit_withHistory ev tx _ s

theorem execStart_withHistory (d : Token) (s : State) :
    execStart d (withHistory ev tx s) = mapNext (withHistory ev tx) (execStart d s) := by
  cases hmode : s.run with
  | stopped => simp only [execStart, withHistory_run, hmode, transmit_withHistory]; rfl
  | starting => simp only [execStart, withHistory_run, hmode]; rfl
  | running => simp only [execStart, withHistory_run, hmode]; rfl

theorem execOpenDone_withHistory (v : Verdict) (s : State) :
    execOpenDone v (withHistory ev tx s) = mapNext (withHistory ev tx) (execOpenDone v s) := by
  by_cases hrun : s.run = .starting
  · cases v with
    | ok md => simp only [execOpenDone, withHistory_run, hrun]; rfl
    | metaFail => simp only [execOpenDone, withHistory_run, hrun, transmit_withHistory]; rfl
    | transportFail c => simp only [execOpenDone, withHistory_run, hrun]; rfl
  · rw [execOpenDone_of_not_starting v hrun, execOpenDone_of_not_starting (s := withHistory ev tx s) v hrun]
    rfl

theorem execStop_withHistory (s : State) :
    execStop (withHistory ev tx s) = mapNext (withHistory ev tx) (execStop s) := by
  by_cases hrun : s.run = .running
  · rw [execStop_of_running hrun, execStop_of_running (s := withHistory ev tx s) hrun, endSession_withHistory]
    rfl
  · rw [execStop_of_not_running hrun, execStop_of_not_running (s := withHistory ev tx s) hrun]
    rfl

theorem execSend_withHistory (cmd : Option (List Byte)) (o : SinkOutcome) (s : State) :
    execSend cmd o (withHistory ev tx s) = mapNext (withHistory ev tx) (execSend cmd o s) := by
  by_cases hrun : s.run = .running
  · match cmd, o with
    | none, o =>
      rw [execSend_none_of_running o hrun, execSend_none_of_running (s := withHistory ev tx s) o hrun]
      rfl
    | some p, .ok =>
      rw [execSend_ok p hrun, execSend_ok (s := withHistory ev tx s) p hrun, sentOk, txFrame_withHistory]
      rfl
    | some p, .fail c =>
      rw [execSend_fail p c hrun, execSend_fail (s := withHistory ev tx s) p c hrun, txFrame_withHistory,
        endSession_withHistory]
      rfl
  · rw [execSend_of_not_running cmd o hrun, execSend_of_not_running (s := withHistory ev tx s) cmd o hrun]
    rfl

theorem execSetcal_withHistory (l m r : Word64) (s : State) :
    execSetcal l m r (withHistory ev tx s) = mapNext (withHistory ev tx) (execSetcal l m r s) := by
  cases duty : (cfgNum s.cfg).validF l && (cfgNum s.cfg).validF m && (cfgNum s.cfg).validF r with
  | true => simp only [execSetcal, withHistory_cfg, duty, if_true]; rfl
  | false => simp only [execSetcal, withHistory_cfg, duty, Bool.false_eq_true, if_false]; rfl

theorem execTransportFail_withHistory (c : Option Token) (s : State) :
    execTransportFail c (withHistory ev tx s) = mapNext (withHistory ev tx) (execTransportFail c s) := by
  cases hmode : s.run with
  | stopped => simp only [execTransportFail, withHistory_run, hmode]; rfl
  | starting => simp only [execTransportFail, withHistory_run, hmode]; rfl
  | running =>
    simp only [execTransportFail, withHistory_run, hmode, raise_withHistory, endSession_withHistory]
    rfl

/-- The receive and frame operations by what the receiver reads, the sends and calls by their own lemma; the others
write no trace. -/
theorem exec_withHistory {i : Instr} (hreset : i ≠ .reset) (s : State) :
    exec i (withHistory ev tx s) = mapNext (withHistory ev tx) (exec i s) := by
  cases i with
  | reset => exact absurd rfl hreset
  | rxEtx => exact execRxEtx_retrace ev (tx ++ ·) id s
  | rxData b => exact congrArg Host.Outcome.next (append_retrace ev (tx ++ ·) id b s)
  | rxUnesc b => exact execRxUnesc_retrace ev (tx ++ ·) id b s
  | rxbyte b => exact execRxbyte_retrace ev (tx ++ ·) id b s
  | frmAvg v => exact congrArg Host.Outcome.next (frmAvg_retrace ev (tx ++ ·) id v s)
  | frmBurst f => exact congrArg Host.Outcome.next (frmBurst_retrace ev (tx ++ ·) id f s)
  | txFrame p o =>
    exact congrArg (fun u => Host.Outcome.next (handBack (.sink o) u)) (txFrame_withHistory ev tx p s)
  | start d => exact execStart_withHistory ev tx d s
  | openDone v => exact execOpenDone_withHistory ev tx v s
  | stop => exact execStop_withHistory ev tx s
  | send cmd o => exact execSend_withHistory ev tx cmd o s
  | setcal l m r => exact execSetcal_withHistory ev tx l m r s
  | transportFail c => exact execTransportFail_withHistory ev tx c s
  | rxEsc | frmTick | txStuffStx | txStuffEtx | txStuffEsc | txLit | wNone | wLow | wMid | wHigh => rfl

end history

/-- Settles O59: every operation but RESET commutes with a history put in front, and RESET empties both traces. -/
theorem historyIsNeverRead : Obligations.HistoryIsNeverRead :=
  ⟨fun _ s ev tx hreset => exec_withHistory ev tx hreset s, fun _ _ _ => rfl⟩

end Sys2Proof.Machine
end

section
/-! Rounding (`93_implementation_defined.md` G5): the rounded quotient is the nearest, and a value with a significand
of the format's width is not changed. -/

namespace Sys2Proof.Machine

/-- The rounded quotient is the floor where the remainder is the lesser half, else the next natural; a half goes to
the even one. -/
theorem rneDiv_cases (a b : Nat) :
    (rneDiv a b = a / b ∧ 2 * (a % b) ≤ b ∧ (2 * (a % b) = b → a / b % 2 = 0)) ∨
    (rneDiv a b = a / b + 1 ∧ b ≤ 2 * (a % b) ∧ (2 * (a % b) = b → a / b % 2 = 1)) := by
  unfold rneDiv
  simp only
  split_ifs with below above
  · exact .inl ⟨rfl, by omega, by omega⟩
  · exact .inr ⟨rfl, by omega, by omega⟩
  · rcases Nat.mod_two_eq_zero_or_one (a / b) with even | odd
    · exact .inl ⟨by omega, by omega, fun _ => even⟩
    · exact .inr ⟨by omega, by omega, fun _ => odd⟩

/-- Settles O33: the distance to the quotient is the remainder, or what the remainder lacks of `b`. -/
theorem roundingIsToNearestEven : Obligations.RoundingIsToNearestEven := by
  intro a b hb
  have division := Nat.div_add_mod' a b
  have remainder := Nat.mod_lt a hb
  rcases rneDiv_cases a b with ⟨down, near, even⟩ | ⟨up, near, odd⟩
  · rw [down]
    generalize a / b * b = product at division ⊢
    refine ⟨by omega, by omega, by omega, by omega⟩
  · have next : (a / b + 1) * b = a / b * b + b := Nat.succ_mul _ _
    rw [up, next]
    generalize a / b * b = product at division ⊢
    refine ⟨by omega, by omega, by omega, by omega⟩

/-- `m` is a significand of binade `k`: it fits the format, and above the least binade its top bit is set. -/
structure Significand (fb k m : Nat) : Prop where
  fits   : m < 2 ^ (fb + 1)
  normal : k = 0 ∨ 2 ^ fb ≤ m

theorem Significand.log2 {fb k m : Nat} (h : Significand fb k m) : (m * 2 ^ k).log2 - fb = k := by
  rcases h.normal with rfl | top
  · rw [Nat.pow_zero, Nat.mul_one]
    rcases Nat.eq_zero_or_pos m with rfl | pos
    · simp
    · have := (Nat.log2_lt (Nat.ne_of_gt pos)).mpr h.fits
      omega
  · have pos : m * 2 ^ k ≠ 0 :=
      Nat.mul_ne_zero ((Nat.two_pow_pos fb).trans_le top).ne' (Nat.two_pow_pos k).ne'
    have log : (m * 2 ^ k).log2 = fb + k := by
      rw [Nat.log2_eq_iff pos, Nat.add_right_comm, pow_add, pow_add 2 (fb + 1)]
      exact ⟨Nat.mul_le_mul_right _ top, Nat.mul_lt_mul_of_pos_right h.fits (by positivity)⟩
    omega

/-- A value that is `m` units of binade `k` is rounded to the bits of that significand. -/
theorem roundMag_of_significand {fb qu inf n d k m : Nat} (hd : 0 < d) (h : Significand fb k m)
    (value : n * 2 ^ qu = m * 2 ^ k * d) (finite : k * 2 ^ fb + m ≤ inf) :
    roundMag fb qu inf n d = k * 2 ^ fb + m := by
  have regroup : m * 2 ^ k * d = m * (d * 2 ^ k) := by ring
  have binade : (n * 2 ^ qu / d).log2 - fb = k := by rw [value, Nat.mul_div_cancel _ hd, h.log2]
  rw [roundMag, binade, value, regroup, rneDiv_exact m (by positivity)]
  exact Nat.min_eq_left finite

/-- Every magnitude is that of a significand. -/
theorem significand_of_mag (fb M : Nat) : ∃ k m, M = k * 2 ^ fb + m ∧ Significand fb k m := by
  have pos : 0 < 2 ^ fb := by positivity
  have double : 2 ^ (fb + 1) = 2 * 2 ^ fb := by ring
  have division := Nat.div_add_mod' M (2 ^ fb)
  have remainder := Nat.mod_lt M pos
  cases hq : M / 2 ^ fb with
  | zero => exact ⟨0, M, by omega, by rw [hq] at division; omega, .inl rfl⟩
  | succ k =>
    rw [hq, Nat.succ_mul] at division
    exact ⟨k, 2 ^ fb + M % 2 ^ fb, by omega, by omega, .inr (by omega)⟩

/-- A pattern with the bits of a significand stands for it. -/
theorem units64_of_significand {a : Word64} {k m : Nat} (mag : magBits64 a = k * 2 ^ 52 + m)
    (h : Significand 52 k m) : units64 a = m * 2 ^ k := by
  have fits : m < 2 ^ 53 := h.fits
  unfold units64
  rw [mag]
  rcases Nat.lt_or_ge m (2 ^ 52) with subnormal | normal
  · obtain rfl : k = 0 := h.normal.resolve_right (by omega)
    have e : (0 * 2 ^ 52 + m) / 2 ^ 52 = 0 := by omega
    have f : (0 * 2 ^ 52 + m) % 2 ^ 52 = m := by omega
    simp only [e, f, if_true, Nat.pow_zero, Nat.mul_one]
  · have e : (k * 2 ^ 52 + m) / 2 ^ 52 = k + 1 := by omega
    have f : 2 ^ 52 + (k * 2 ^ 52 + m) % 2 ^ 52 = m := by omega
    simp only [e, f, Nat.add_eq_zero_iff, one_ne_zero, and_false, if_false, Nat.add_sub_cancel]

/-- Settles O34: the value of a finite pattern has the pattern's own significand. -/
theorem finiteValuesRoundToThemselves : Obligations.FiniteValuesRoundToThemselves := by
  intro a finite
  obtain ⟨k, m, mag, h⟩ := significand_of_mag 52 (magBits64 a)
  rw [units64_of_significand mag h, mag]
  exact roundMag_of_significand (Nat.two_pow_pos _) h rfl (mag ▸ finite.le)

/-- A natural below 2^53 has a significand of its own. -/
theorem significand_of_nat {n : Nat} (h : n < 2 ^ 53) :
    ∃ k m, n * 2 ^ quantum64 = m * 2 ^ k ∧ Significand 52 k m ∧ k ≤ quantum64 := by
  rcases Nat.eq_zero_or_pos n with rfl | pos
  · exact ⟨0, 0, by rw [Nat.zero_mul, Nat.zero_mul], ⟨by positivity, .inl rfl⟩, Nat.zero_le _⟩
  · have ne : n ≠ 0 := Nat.ne_of_gt pos
    have log : n.log2 < 53 := (Nat.log2_lt ne).mpr h
    have low : 2 ^ n.log2 ≤ n := Nat.log2_self_le ne
    have high : n < 2 ^ (n.log2 + 1) := Nat.lt_log2_self
    refine ⟨1022 + n.log2, n * 2 ^ (52 - n.log2), ?_, ⟨?_, .inr ?_⟩, ?_⟩
    · have split : quantum64 = (52 - n.log2) + (1022 + n.log2) := by rw [quantum64]; omega
      rw [split, pow_add, Nat.mul_assoc]
    · calc n * 2 ^ (52 - n.log2) < 2 ^ (n.log2 + 1) * 2 ^ (52 - n.log2) :=
            Nat.mul_lt_mul_of_pos_right high (by positivity)
        _ = 2 ^ (52 + 1) := by rw [← pow_add]; congr 1; omega
    · calc 2 ^ 52 = 2 ^ n.log2 * 2 ^ (52 - n.log2) := by rw [← pow_add]; congr 1; omega
        _ ≤ n * 2 ^ (52 - n.log2) := Nat.mul_le_mul_right _ low
    · rw [quantum64]; omega

end Sys2Proof.Machine
end

section
/-! The default arithmetic on patterns without a sign that are no NaN: they are those up to `infBits64`, ordered as
their values are (`43_range_scaler.md` section 3). -/

namespace Sys2Proof.Machine

variable {a b : Word64}

theorem pack64_toNat {M : Nat} (h : M ≤ infBits64) : (pack64 false M).toNat = M := by
  have small : M < 2 ^ 64 := h.trans_lt (by decide)
  rw [pack64, BitVec.toNat_ofNat]
  exact Nat.mod_eq_of_lt small

theorem neg64_of_le (h : a.toNat ≤ infBits64) : neg64 a = false :=
  decide_eq_false (Nat.not_le.mpr (h.trans_lt (by decide)))

theorem magBits64_of_le (h : a.toNat ≤ infBits64) : magBits64 a = a.toNat :=
  Nat.mod_eq_of_lt (h.trans_lt (by decide))

theorem isNan64_of_le (h : a.toNat ≤ infBits64) : isNan64 a = false :=
  decide_eq_false (by rw [magBits64_of_le h]; exact Nat.not_lt.mpr h)

theorem isInf64_of_lt (h : a.toNat < infBits64) : isInf64 a = false :=
  decide_eq_false (by rw [magBits64_of_le h.le]; exact h.ne)

theorem isInf64_of_eq (h : a.toNat = infBits64) : isInf64 a = true :=
  decide_eq_true (by rw [magBits64_of_le h.le, h])

theorem isZero64_of_units (h : 0 < units64 a) : isZero64 a = false := by
  refine decide_eq_false fun zero => ?_
  have none := units64_of_significand (a := a) (k := 0) (m := 0) zero ⟨by decide, .inl rfl⟩
  omega

theorem units64_pos (h : isZero64 a = false) : 0 < units64 a := by
  obtain ⟨k, m, mag, hs⟩ := significand_of_mag 52 (magBits64 a)
  rw [units64_of_significand mag hs]
  have nonzero : magBits64 a ≠ 0 := of_decide_eq_false h
  have pos : 0 < m := by
    rcases hs.normal with rfl | top
    · omega
    · exact (Nat.two_pow_pos 52).trans_le top
  positivity

/-- Patterns order as their values do. -/
theorem units64_mono (ha : a.toNat ≤ infBits64) (hb : b.toNat ≤ infBits64) (h : a.toNat ≤ b.toNat) :
    units64 a ≤ units64 b := by
  obtain ⟨k, m, maga, ⟨fits, normal⟩⟩ := significand_of_mag 52 (magBits64 a)
  obtain ⟨k', m', magb, ⟨fits', normal'⟩⟩ := significand_of_mag 52 (magBits64 b)
  rw [units64_of_significand maga ⟨fits, normal⟩, units64_of_significand magb ⟨fits', normal'⟩]
  rw [magBits64_of_le ha] at maga
  rw [magBits64_of_le hb] at magb
  rcases Nat.lt_trichotomy k k' with lower | rfl | higher
  · have top : 2 ^ 52 ≤ m' := normal'.resolve_left (by omega)
    calc m * 2 ^ k ≤ 2 ^ (52 + 1) * 2 ^ k := Nat.mul_le_mul_right _ fits.le
      _ = 2 ^ 52 * 2 ^ (k + 1) := by ring
      _ ≤ m' * 2 ^ k' := Nat.mul_le_mul top (Nat.pow_le_pow_right (by decide) lower)
  · exact Nat.mul_le_mul_right _ (by omega)
  · have top : 2 ^ 52 ≤ m := normal.resolve_left (by omega)
    omega

theorem round64_le (n d : Nat) : round64 n d ≤ infBits64 := roundMag_le_inf _ _ _ _ _

theorem round64_pack (n d : Nat) : (pack64 false (round64 n d)).toNat = round64 n d :=
  pack64_toNat (round64_le n d)

/-! ### Naturals -/

/-- A natural below 2^53 is converted exactly, to a finite pattern. -/
theorem ofNat64_exact {n : Nat} (h : n < 2 ^ 53) :
    (ofNat64 n).toNat < infBits64 ∧ units64 (ofNat64 n) = n * 2 ^ quantum64 := by
  obtain ⟨k, m, value, hs, bound⟩ := significand_of_nat h
  have finite : k * 2 ^ 52 + m < infBits64 := by
    have fits := hs.fits
    rw [quantum64] at bound
    rw [infBits64]
    omega
  have rounds : round64 n 1 = k * 2 ^ 52 + m :=
    roundMag_of_significand Nat.one_pos hs (by rw [value, Nat.mul_one]) finite.le
  have bits : (ofNat64 n).toNat = k * 2 ^ 52 + m := (round64_pack n 1).trans rounds
  have lt : (ofNat64 n).toNat < infBits64 := bits ▸ finite
  exact ⟨lt, (units64_of_significand ((magBits64_of_le lt.le).trans bits) hs).trans value.symm⟩

theorem ofNat64_mono {m n : Nat} (h : m ≤ n) : (ofNat64 m).toNat ≤ (ofNat64 n).toNat := by
  rw [ofNat64, ofNat64, round64_pack, round64_pack]
  exact roundMag_mono _ _ _ Nat.one_pos Nat.one_pos (Nat.mul_le_mul_right 1 h)

theorem code_lt (k : Code) : k.toNat < 2 ^ 53 := k.isLt.trans (by decide)

/-- Settles O35: a code has 14 bits, so it has a significand of 53 bits. -/
theorem codeConversionIsExact : Obligations.CodeConversionIsExact := by
  intro code
  obtain ⟨finite, value⟩ := ofNat64_exact (code_lt code)
  exact ⟨value, neg64_of_le finite.le⟩

/-! ### Multiplication, division and the conversion to binary32 -/

variable {a' b' : Word64}

theorem mul64_of_finite (ha : a.toNat < infBits64) (hb : b.toNat < infBits64) :
    (mul64 a b).toNat = round64 (units64 a * units64 b) (2 ^ (2 * quantum64)) := by
  simp only [mul64, neg64_of_le ha.le, neg64_of_le hb.le, isNan64_of_le ha.le, isNan64_of_le hb.le,
    isInf64_of_lt ha, isInf64_of_lt hb, Bool.or_self, Bool.false_eq_true, if_false, bne_self_eq_false, round64_pack]

theorem mul64_of_inf (ha : a.toNat = infBits64) (hb : b.toNat < infBits64) (pos : 0 < units64 b) :
    (mul64 a b).toNat = infBits64 := by
  have nonzero : isZero64 a = false := decide_eq_false (by rw [magBits64_of_le ha.le, ha]; decide)
  simp only [mul64, neg64_of_le ha.le, neg64_of_le hb.le, isNan64_of_le ha.le, isNan64_of_le hb.le,
    isInf64_of_eq ha, nonzero, isZero64_of_units pos, Bool.or_self, Bool.true_or, Bool.false_eq_true, if_false,
    if_true, bne_self_eq_false, pack64_toNat (Nat.le_refl _)]

theorem mul64_mono (ha : a.toNat < infBits64) (ha' : a'.toNat < infBits64) (hb : b.toNat < infBits64)
    (hb' : b'.toNat < infBits64) (haa' : a.toNat ≤ a'.toNat) (hbb' : b.toNat ≤ b'.toNat) :
    (mul64 a b).toNat ≤ (mul64 a' b').toNat := by
  rw [mul64_of_finite ha hb, mul64_of_finite ha' hb']
  have product := Nat.mul_le_mul (units64_mono ha.le ha'.le haa') (units64_mono hb.le hb'.le hbb')
  exact roundMag_mono _ _ _ (Nat.two_pow_pos _) (Nat.two_pow_pos _) (Nat.mul_le_mul_right _ product)

theorem mul64_le (ha : a.toNat ≤ infBits64) (hb : b.toNat < infBits64) (pos : 0 < units64 b) :
    (mul64 a b).toNat ≤ infBits64 := by
  rcases ha.lt_or_eq with finite | infinite
  · rw [mul64_of_finite finite hb]
    exact round64_le _ _
  · exact (mul64_of_inf infinite hb pos).le

/-- Multiplication by a positive finite value is monotone up to infinity. -/
theorem mul64_mono_left (ha : a.toNat ≤ infBits64) (ha' : a'.toNat ≤ infBits64) (hb : b.toNat < infBits64)
    (pos : 0 < units64 b) (h : a.toNat ≤ a'.toNat) : (mul64 a b).toNat ≤ (mul64 a' b).toNat := by
  rcases ha'.lt_or_eq with finite | infinite
  · exact mul64_mono (h.trans_lt finite) finite hb hb h le_rfl
  · rw [mul64_of_inf infinite hb pos]
    exact mul64_le ha hb pos

theorem round32_le (n d : Nat) : round32 n d ≤ infBits32 := roundMag_le_inf _ _ _ _ _

/-- The bits of a binary32 pattern with no sign added. -/
theorem ofNat32_toNat {M : Nat} (h : M ≤ infBits32) : (BitVec.ofNat 32 (M + 0)).toNat = M := by
  have small : M < 2 ^ 32 := h.trans_lt (by decide)
  rw [BitVec.toNat_ofNat, Nat.add_zero, Nat.mod_eq_of_lt small]

theorem toF32_of_finite (ha : a.toNat < infBits64) :
    (toF32 a).toNat = round32 (units64 a) (2 ^ quantum64) := by
  simp only [toF32, neg64_of_le ha.le, isNan64_of_le ha.le, isInf64_of_lt ha, Bool.false_eq_true, if_false,
    ofNat32_toNat (round32_le _ _)]

theorem toF32_of_inf (ha : a.toNat = infBits64) : (toF32 a).toNat = infBits32 := by
  simp only [toF32, neg64_of_le ha.le, isNan64_of_le ha.le, isInf64_of_eq ha, Bool.false_eq_true, if_false,
    if_true, ofNat32_toNat (Nat.le_refl _)]

theorem toF32_le (ha : a.toNat ≤ infBits64) : (toF32 a).toNat ≤ infBits32 := by
  rcases ha.lt_or_eq with finite | infinite
  · rw [toF32_of_finite finite]
    exact roundMag_le_inf _ _ _ _ _
  · exact (toF32_of_inf infinite).le

theorem toF32_mono (ha : a.toNat ≤ infBits64) (ha' : a'.toNat ≤ infBits64) (h : a.toNat ≤ a'.toNat) :
    (toF32 a).toNat ≤ (toF32 a').toNat := by
  rcases ha'.lt_or_eq with finite | infinite
  · rw [toF32_of_finite (h.trans_lt finite), toF32_of_finite finite]
    exact roundMag_mono _ _ _ (Nat.two_pow_pos _) (Nat.two_pow_pos _)
      (Nat.mul_le_mul_right _ (units64_mono ha ha' h))
  · rw [toF32_of_inf infinite]
    exact toF32_le ha

/-- A finite positive value is a pattern between zero and infinity. -/
theorem bounds_of_valid64 (h : valid64 a = true) : a.toNat < infBits64 ∧ 0 < units64 a := by
  simp only [valid64, Bool.and_eq_true, Bool.not_eq_true', decide_eq_true_eq] at h
  obtain ⟨⟨positive, nonzero⟩, finite⟩ := h
  have small : a.toNat < 2 ^ 63 := Nat.not_le.mp (of_decide_eq_false positive)
  rw [magBits64, Nat.mod_eq_of_lt small] at finite
  exact ⟨finite, units64_pos nonzero⟩

theorem div64_of_valid (ha : valid64 a = true) (hb : valid64 b = true) :
    (div64 a b).toNat = round64 (units64 a) (units64 b) := by
  obtain ⟨finite, -⟩ := bounds_of_valid64 ha
  obtain ⟨finite', pos⟩ := bounds_of_valid64 hb
  simp only [div64, neg64_of_le finite.le, neg64_of_le finite'.le, isNan64_of_le finite.le,
    isNan64_of_le finite'.le, isInf64_of_lt finite, isInf64_of_lt finite', isZero64_of_units pos, Bool.or_self,
    Bool.false_eq_true, if_false, bne_self_eq_false, round64_pack]

/-- The quotient falls as the divisor grows. -/
theorem div64_anti (ha : valid64 a = true) (hb : valid64 b = true) (hb' : valid64 b' = true)
    (h : b.toNat ≤ b'.toNat) : (div64 a b').toNat ≤ (div64 a b).toNat := by
  rw [div64_of_valid ha hb, div64_of_valid ha hb']
  obtain ⟨finite, pos⟩ := bounds_of_valid64 hb
  obtain ⟨finite', pos'⟩ := bounds_of_valid64 hb'
  exact roundMag_mono _ _ _ pos' pos (Nat.mul_le_mul_left _ (units64_mono finite.le finite'.le h))

end Sys2Proof.Machine
end

section
/-! The scaler in the default arithmetic (`43_range_scaler.md` section 3, R167): from a finite gain on, every step is
monotone and stays among the patterns without a sign. -/

namespace Sys2Proof.Machine

/-- The scaler after its division: times the code, times 1,000,000, to binary32. -/
def scaleGain (code : Code) (gain : Word64) : Word32 :=
  toF32 (mul64 (mul64 (ofNat64 code.toNat) gain) (ofNat64 Config.micro))

theorem scale_ieee {c : Cfg} (h : c.numerics = .ieee) (code : Code) (r : Word64) :
    scale c code r = scaleGain code (div64 c.adcScale r) := by
  simp only [scale, cfgNum, h, numericsOf, ieeeNumerics, scaleGain]

/-- Settles O31: `scale` names its steps in this order. -/
theorem scaleFollowsTheSourceOrder : Obligations.ScaleFollowsTheSourceOrder := by
  intro c code r
  rfl

/-- The gain, when it is finite, as a pattern. -/
theorem gain_lt {a r : Word64} (ha : valid64 a = true) (hr : valid64 r = true)
    (finite : magBits64 (div64 a r) < infBits64) : (div64 a r).toNat < infBits64 := by
  have plain : (div64 a r).toNat ≤ infBits64 := by
    rw [div64_of_valid ha hr]
    exact round64_le _ _
  rwa [magBits64_of_le plain] at finite

theorem code_finite (k : Code) : (ofNat64 k.toNat).toNat < infBits64 := (ofNat64_exact (code_lt k)).1

theorem micro_finite : (ofNat64 Config.micro).toNat < infBits64 := (ofNat64_exact (by decide)).1

theorem micro_pos : 0 < units64 (ofNat64 Config.micro) := by
  rw [(ofNat64_exact (n := Config.micro) (by decide)).2]
  exact Nat.mul_pos (by decide) (Nat.two_pow_pos _)

variable {gain gain' : Word64}

theorem product_le (code : Code) (h : gain.toNat < infBits64) :
    (mul64 (ofNat64 code.toNat) gain).toNat ≤ infBits64 := by
  rw [mul64_of_finite (code_finite code) h]
  exact round64_le _ _

theorem scaleGain_le (code : Code) (h : gain.toNat < infBits64) : (scaleGain code gain).toNat ≤ infBits32 :=
  toF32_le (mul64_le (product_le code h) micro_finite micro_pos)

theorem scaleGain_mono {k k' : Code} (h : gain.toNat < infBits64) (h' : gain'.toNat < infBits64)
    (hk : k.toNat ≤ k'.toNat) (hgain : gain.toNat ≤ gain'.toNat) :
    (scaleGain k gain).toNat ≤ (scaleGain k' gain').toNat := by
  have product := mul64_mono (code_finite k) (code_finite k') h h' (ofNat64_mono hk) hgain
  have micros := mul64_mono_left (product_le k h) (product_le k' h') micro_finite micro_pos product
  exact toF32_mono (mul64_le (product_le k h) micro_finite micro_pos)
    (mul64_le (product_le k' h') micro_finite micro_pos) micros

/-- Zero is rounded to zero in every format. -/
theorem roundMag_zero {fb qu inf d : Nat} (hd : 0 < d) : roundMag fb qu inf 0 d = 0 := by
  have zero := roundMag_of_significand (fb := fb) (qu := qu) (inf := inf) (n := 0) (k := 0) (m := 0) hd
    ⟨Nat.two_pow_pos _, .inl rfl⟩ (by simp only [Nat.zero_mul])
    (by rw [Nat.zero_mul]; exact Nat.zero_le _)
  rwa [Nat.zero_mul] at zero

theorem mul64_of_zero {a b : Word64} (ha : units64 a = 0) (hfin : a.toNat < infBits64) (hb : b.toNat < infBits64) :
    mul64 a b = 0#64 := by
  apply BitVec.eq_of_toNat_eq
  rw [mul64_of_finite hfin hb, ha, Nat.zero_mul]
  exact roundMag_zero (Nat.two_pow_pos _)

theorem units64_zero : units64 0#64 = 0 :=
  (units64_of_significand (k := 0) (m := 0) (by decide) ⟨by decide, .inl rfl⟩).trans (Nat.zero_mul _)

theorem scaleGain_zero (h : gain.toNat < infBits64) : scaleGain 0#14 gain = 0#32 := by
  have code : units64 (ofNat64 (0#14).toNat) = 0 := by
    rw [(ofNat64_exact (code_lt 0#14)).2, BitVec.toNat_zero, Nat.zero_mul]
  have zero : (0#64).toNat < infBits64 := by decide
  rw [scaleGain, mul64_of_zero code (code_finite 0#14) h, mul64_of_zero units64_zero zero micro_finite]
  apply BitVec.eq_of_toNat_eq
  rw [toF32_of_finite zero, units64_zero]
  exact roundMag_zero (Nat.two_pow_pos _)

/-- Settles O36: the code is exactly zero, and zero times a finite gain stays zero to the end. -/
theorem scaleOfZeroIsZero : Obligations.ScaleOfZeroIsZero := by
  intro c r ieee hscale hr finite
  rw [scale_ieee ieee]
  exact scaleGain_zero (gain_lt hscale hr finite)

/-- Settles O37: no step gives a sign or a NaN, and the last one rounds to at most infinity. -/
theorem scaleIsNeverNegativeNorNan : Obligations.ScaleIsNeverNegativeNorNan := by
  intro c code r ieee hscale hr finite
  rw [scale_ieee ieee]
  exact scaleGain_le code (gain_lt hscale hr finite)

/-- Settles O38: the gain is the same, and every step after it is monotone. -/
theorem scaleIsMonotoneInTheCode : Obligations.ScaleIsMonotoneInTheCode := by
  intro c k1 k2 r ieee hscale hr finite hk
  rw [scale_ieee ieee, scale_ieee ieee]
  have gain := gain_lt hscale hr finite
  exact scaleGain_mono gain gain hk le_rfl

/-- Settles O39: the greater resistor gives the lesser gain, and every step after it is monotone. -/
theorem scaleIsAntitoneInTheResistor : Obligations.ScaleIsAntitoneInTheResistor := by
  intro c code r1 r2 ieee hscale hr1 hr2 finite1 finite2 hr
  rw [scale_ieee ieee, scale_ieee ieee]
  exact scaleGain_mono (gain_lt hscale hr2 finite2) (gain_lt hscale hr1 finite1) le_rfl
    (div64_anti hscale hr1 hr2 hr)

theorem ofRat64_defaults :
    ofRat64 18 10 = 0x3FFCCCCCCCCCCCCD#64 ∧ ofRat64 28 1 = 0x403C000000000000#64 ∧
      ofRat64 510 1 = 0x407FE00000000000#64 := by decide +kernel

/-- Settles O41: the fields of the power-on state, and the three rationals rounded by evaluation. -/
theorem resetValues : Obligations.ResetValues := by
  refine ⟨rfl, rfl, rfl, rfl, rfl, rfl, rfl, rfl, fun c ieee => ?_⟩
  obtain ⟨low, mid, high⟩ := ofRat64_defaults
  simp only [State.powerOn, rLowDefault, rMidDefault, rHighDefault, cfgNum, ieee, numericsOf, ieeeNumerics]
  exact ⟨low, mid, high⟩

end Sys2Proof.Machine
end
